-- ==== Sys2Proof/Word.lean ====
section
/-! DEFINITION. The widths of the hardware: bytes, instruction words, and the operand fields of a word
(00_scope.md R7, R9; 30_encoding.md R101). All values are unsigned (R9); nothing is sign-extended. -/

namespace Sys2Proof

/-- An 8-bit value: a memory byte, a general register, a timer (00_scope.md R7). -/
abbrev Byte := BitVec 8

/-- A 16-bit value: an instruction word, `pc`, `I`, a stack slot (00_scope.md R7). -/
abbrev Word := BitVec 16

/-- A register selector, the X or Y field of a word (30_encoding.md R101). -/
abbrev Reg := BitVec 4

/-- A 4-bit field that counts or selects: N of DXYN, a key number (30_encoding.md R101, 10_state.md R42). -/
abbrev Nibble := BitVec 4

/-- A 12-bit address, the NNN field of a word (30_encoding.md R101). -/
abbrev Addr12 := BitVec 12

/-- VF, "the flag register" (00_scope.md R7: register 15). -/
abbrev VF : Reg := 0xF#4

end Sys2Proof
end

