-- ==== Sys2Proof/Syntax.lean ====
section
/-! DEFINITION. The instruction set: one constructor per row of the opcode map (30_encoding.md R104), in its order.
Each operand has the width of its field (R101), so every value of every operand is legal, as R107 says. -/

namespace Sys2Proof

/-- The 34 instructions of 30_encoding.md R104. -/
inductive Instr where
  /-- 00E0, clear the framebuffer (R300). -/
  | cls
  /-- 00EE, return from subroutine (R173). -/
  | ret
  /-- 1NNN, jump (R174). -/
  | jp (nnn : Addr12)
  /-- 2NNN, call (R175). -/
  | call (nnn : Addr12)
  /-- 3XNN, skip if V[x] = nn (R176). -/
  | seVxNn (x : Reg) (nn : Byte)
  /-- 4XNN, skip if V[x] != nn (R177). -/
  | sneVxNn (x : Reg) (nn : Byte)
  /-- 5XY0, skip if V[x] = V[y] (R178). -/
  | seVxVy (x y : Reg)
  /-- 6XNN, load immediate (R210). -/
  | ldVxNn (x : Reg) (nn : Byte)
  /-- 7XNN, add immediate without a flag (R211). -/
  | addVxNn (x : Reg) (nn : Byte)
  /-- 8XY0, assign (R212). -/
  | ldVxVy (x y : Reg)
  /-- 8XY1, bitwise OR (R213). -/
  | or (x y : Reg)
  /-- 8XY2, bitwise AND (R214). -/
  | and (x y : Reg)
  /-- 8XY3, bitwise XOR (R215). -/
  | xor (x y : Reg)
  /-- 8XY4, add with carry into VF (R216). -/
  | addVxVy (x y : Reg)
  /-- 8XY5, subtract X - Y (R217). -/
  | sub (x y : Reg)
  /-- 8XY6, shift right by one; y is decoded and ignored (R218). -/
  | shr (x y : Reg)
  /-- 8XY7, subtract Y - X (R219). -/
  | subn (x y : Reg)
  /-- 8XYE, shift left by one; y is decoded and ignored (R220). -/
  | shl (x y : Reg)
  /-- 9XY0, skip if V[x] != V[y] (R179). -/
  | sneVxVy (x y : Reg)
  /-- ANNN, set I (R260). -/
  | ldINnn (nnn : Addr12)
  /-- BNNN, computed jump (R180). -/
  | jpV0 (nnn : Addr12)
  /-- CXNN, random byte masked by nn (R222). -/
  | rnd (x : Reg) (nn : Byte)
  /-- DXYN, draw an n-row sprite (R302). -/
  | drw (x y : Reg) (n : Nibble)
  /-- EX9E, skip if the key is down (R330). -/
  | skp (x : Reg)
  /-- EXA1, skip if the key is up (R331). -/
  | sknp (x : Reg)
  /-- FX07, read the delay timer (R360). -/
  | ldVxDt (x : Reg)
  /-- FX0A, wait for a key and read it (R332). -/
  | ldVxK (x : Reg)
  /-- FX15, set the delay timer (R361). -/
  | ldDtVx (x : Reg)
  /-- FX18, set the sound timer (R362). -/
  | ldStVx (x : Reg)
  /-- FX1E, add V[x] to I (R261). -/
  | addIVx (x : Reg)
  /-- FX29, point I at a glyph (R262). -/
  | ldFVx (x : Reg)
  /-- FX33, store the decimal digits of V[x] (R264). -/
  | ldBVx (x : Reg)
  /-- FX55, store V0..Vx (R265). -/
  | ldMemVx (x : Reg)
  /-- FX65, load V0..Vx (R266). -/
  | ldVxMem (x : Reg)
  deriving DecidableEq, Repr

end Sys2Proof
end

