-- ==== Sys2Proof/Decode.lean ====
section
/-! DEFINITION. From words to instructions and back (30_encoding.md). `decode` dispatches on the group nibble and the
sub-operation bits (R101, R103, R142); every other word is a decode error (R108). `encode` writes the pattern of the
instruction's row (R104). `opcodeRow` is the row itself, with the mask and match of R104. -/

namespace Sys2Proof

/-- What decoding a word gives: "one constructor per row … plus decode_error" (40_fetch_decode.md R143), the rows
being `Instr`'s constructors. -/
inductive Decoded where
  /-- The word is this instruction. -/
  | instr (i : Instr)
  /-- The word matches no row of R104 (R106, R108): a decode error, by its word. -/
  | decodeError (w : Word)
  deriving DecidableEq, Repr

/-- The word was a decode error. -/
def Decoded.isError : Decoded → Bool
  | .instr _ => false
  | .decodeError _ => true

/-! ### Fields (R101) -/

/-- G = w[15:12]. -/
def Word.group (w : Word) : Nibble := w.extractLsb' 12 4
/-- X = w[11:8]. -/
def Word.fieldX (w : Word) : Reg := w.extractLsb' 8 4
/-- Y = w[7:4]. -/
def Word.fieldY (w : Word) : Reg := w.extractLsb' 4 4
/-- N = w[3:0]. -/
def Word.fieldN (w : Word) : Nibble := w.extractLsb' 0 4
/-- NN = w[7:0]. -/
def Word.fieldNn (w : Word) : Byte := w.extractLsb' 0 8
/-- NNN = w[11:0]. -/
def Word.fieldNnn (w : Word) : Addr12 := w.extractLsb' 0 12

/-! ### Decoding -/

/-- Group 0: exactly 0x00E0 and 0x00EE (R104 rows 1, 2; R108). -/
def decodeGroup0 (w : Word) : Decoded :=
  if w = 0x00E0#16 then .instr .cls
  else if w = 0x00EE#16 then .instr .ret
  else .decodeError w

/-- Group 5: only N = 0 (R104 row 7; R108). -/
def decodeGroup5 (w : Word) : Decoded :=
  if Word.fieldN w = 0x0#4 then .instr (.seVxVy (Word.fieldX w) (Word.fieldY w)) else .decodeError w

/-- Group 8 by its low nibble (R104 rows 10 to 18; the nibbles are R105's, log 13). -/
def decodeGroup8 (w : Word) : Decoded :=
  match Word.fieldN w with
  | 0x0#4 => .instr (.ldVxVy (Word.fieldX w) (Word.fieldY w))
  | 0x1#4 => .instr (.or (Word.fieldX w) (Word.fieldY w))
  | 0x2#4 => .instr (.and (Word.fieldX w) (Word.fieldY w))
  | 0x3#4 => .instr (.xor (Word.fieldX w) (Word.fieldY w))
  | 0x4#4 => .instr (.addVxVy (Word.fieldX w) (Word.fieldY w))
  | 0x5#4 => .instr (.sub (Word.fieldX w) (Word.fieldY w))
  | 0x6#4 => .instr (.shr (Word.fieldX w) (Word.fieldY w))
  | 0x7#4 => .instr (.subn (Word.fieldX w) (Word.fieldY w))
  | 0xE#4 => .instr (.shl (Word.fieldX w) (Word.fieldY w))
  | _ => .decodeError w

/-- Group 9: only N = 0 (R104 row 19; R108). -/
def decodeGroup9 (w : Word) : Decoded :=
  if Word.fieldN w = 0x0#4 then .instr (.sneVxVy (Word.fieldX w) (Word.fieldY w)) else .decodeError w

/-- Group E by its low byte (R104 rows 24, 25; R108). -/
def decodeGroupE (w : Word) : Decoded :=
  match Word.fieldNn w with
  | 0x9E#8 => .instr (.skp (Word.fieldX w))
  | 0xA1#8 => .instr (.sknp (Word.fieldX w))
  | _ => .decodeError w

/-- Group F by its low byte (R104 rows 26 to 34; R108). -/
def decodeGroupF (w : Word) : Decoded :=
  match Word.fieldNn w with
  | 0x07#8 => .instr (.ldVxDt (Word.fieldX w))
  | 0x0A#8 => .instr (.ldVxK (Word.fieldX w))
  | 0x15#8 => .instr (.ldDtVx (Word.fieldX w))
  | 0x18#8 => .instr (.ldStVx (Word.fieldX w))
  | 0x1E#8 => .instr (.addIVx (Word.fieldX w))
  | 0x29#8 => .instr (.ldFVx (Word.fieldX w))
  | 0x33#8 => .instr (.ldBVx (Word.fieldX w))
  | 0x55#8 => .instr (.ldMemVx (Word.fieldX w))
  | 0x65#8 => .instr (.ldVxMem (Word.fieldX w))
  | _ => .decodeError w

/-- Decoding a word (R106, R142): total on all 65536 words, and it reads nothing but the word. -/
def decode (w : Word) : Decoded :=
  match Word.group w with
  | 0x0#4 => decodeGroup0 w
  | 0x1#4 => .instr (.jp (Word.fieldNnn w))
  | 0x2#4 => .instr (.call (Word.fieldNnn w))
  | 0x3#4 => .instr (.seVxNn (Word.fieldX w) (Word.fieldNn w))
  | 0x4#4 => .instr (.sneVxNn (Word.fieldX w) (Word.fieldNn w))
  | 0x5#4 => decodeGroup5 w
  | 0x6#4 => .instr (.ldVxNn (Word.fieldX w) (Word.fieldNn w))
  | 0x7#4 => .instr (.addVxNn (Word.fieldX w) (Word.fieldNn w))
  | 0x8#4 => decodeGroup8 w
  | 0x9#4 => decodeGroup9 w
  | 0xA#4 => .instr (.ldINnn (Word.fieldNnn w))
  | 0xB#4 => .instr (.jpV0 (Word.fieldNnn w))
  | 0xC#4 => .instr (.rnd (Word.fieldX w) (Word.fieldNn w))
  | 0xD#4 => .instr (.drw (Word.fieldX w) (Word.fieldY w) (Word.fieldN w))
  | 0xE#4 => decodeGroupE w
  | _ => decodeGroupF w

/-- What decoding a byte string gives. -/
inductive BytesDecoded where
  /-- The first two bytes are this word's decoding; `rest` follows. -/
  | word (d : Decoded) (rest : List Byte)
  /-- Fewer than two bytes: no word can be fetched (R100: "A decoder always consumes exactly two bytes"). -/
  | truncated
  deriving DecidableEq, Repr

/-- The word of two bytes in memory order: "the byte at the lower address is the high byte" (20_memory.md R78). -/
def wordOfBytes (hi lo : Byte) : Word := hi ++ lo

/-- The bytes of a word in memory order (R78). -/
def bytesOfWord (w : Word) : Byte × Byte := (w.extractLsb' 8 8, w.extractLsb' 0 8)

/-- Decoding the head of a byte string: exactly two bytes, big-endian (R100, R78). -/
def decodeBytes : List Byte → BytesDecoded
  | hi :: lo :: rest => .word (decode (wordOfBytes hi lo)) rest
  | _ => .truncated

/-! ### Encoding -/

/-- The word of an instruction: its row's pattern with the operands in their fields (R101, R104). -/
def encode : Instr → Word
  | .cls => 0x00E0#16
  | .ret => 0x00EE#16
  | .jp nnn => 0x1#4 ++ nnn
  | .call nnn => 0x2#4 ++ nnn
  | .seVxNn x nn => 0x3#4 ++ x ++ nn
  | .sneVxNn x nn => 0x4#4 ++ x ++ nn
  | .seVxVy x y => 0x5#4 ++ x ++ y ++ 0x0#4
  | .ldVxNn x nn => 0x6#4 ++ x ++ nn
  | .addVxNn x nn => 0x7#4 ++ x ++ nn
  | .ldVxVy x y => 0x8#4 ++ x ++ y ++ 0x0#4
  | .or x y => 0x8#4 ++ x ++ y ++ 0x1#4
  | .and x y => 0x8#4 ++ x ++ y ++ 0x2#4
  | .xor x y => 0x8#4 ++ x ++ y ++ 0x3#4
  | .addVxVy x y => 0x8#4 ++ x ++ y ++ 0x4#4
  | .sub x y => 0x8#4 ++ x ++ y ++ 0x5#4
  | .shr x y => 0x8#4 ++ x ++ y ++ 0x6#4
  | .subn x y => 0x8#4 ++ x ++ y ++ 0x7#4
  | .shl x y => 0x8#4 ++ x ++ y ++ 0xE#4
  | .sneVxVy x y => 0x9#4 ++ x ++ y ++ 0x0#4
  | .ldINnn nnn => 0xA#4 ++ nnn
  | .jpV0 nnn => 0xB#4 ++ nnn
  | .rnd x nn => 0xC#4 ++ x ++ nn
  | .drw x y n => 0xD#4 ++ x ++ y ++ n
  | .skp x => 0xE#4 ++ x ++ 0x9E#8
  | .sknp x => 0xE#4 ++ x ++ 0xA1#8
  | .ldVxDt x => 0xF#4 ++ x ++ 0x07#8
  | .ldVxK x => 0xF#4 ++ x ++ 0x0A#8
  | .ldDtVx x => 0xF#4 ++ x ++ 0x15#8
  | .ldStVx x => 0xF#4 ++ x ++ 0x18#8
  | .addIVx x => 0xF#4 ++ x ++ 0x1E#8
  | .ldFVx x => 0xF#4 ++ x ++ 0x29#8
  | .ldBVx x => 0xF#4 ++ x ++ 0x33#8
  | .ldMemVx x => 0xF#4 ++ x ++ 0x55#8
  | .ldVxMem x => 0xF#4 ++ x ++ 0x65#8

/-! ### The opcode map -/

/-- A row of 30_encoding.md R104: `w` is the instruction exactly when `w & mask = pattern` (R104 calls it `match`). -/
structure OpcodeRow where
  pattern : Word
  mask : Word
  deriving DecidableEq, Repr

/-- A word fits a row (R104). -/
def OpcodeRow.fits (r : OpcodeRow) (w : Word) : Bool := w &&& r.mask == r.pattern

/-- The row of each instruction (R104, the columns `match` and `mask`). -/
def opcodeRow : Instr → OpcodeRow
  | .cls => ⟨0x00E0, 0xFFFF⟩
  | .ret => ⟨0x00EE, 0xFFFF⟩
  | .jp _ => ⟨0x1000, 0xF000⟩
  | .call _ => ⟨0x2000, 0xF000⟩
  | .seVxNn _ _ => ⟨0x3000, 0xF000⟩
  | .sneVxNn _ _ => ⟨0x4000, 0xF000⟩
  | .seVxVy _ _ => ⟨0x5000, 0xF00F⟩
  | .ldVxNn _ _ => ⟨0x6000, 0xF000⟩
  | .addVxNn _ _ => ⟨0x7000, 0xF000⟩
  | .ldVxVy _ _ => ⟨0x8000, 0xF00F⟩
  | .or _ _ => ⟨0x8001, 0xF00F⟩
  | .and _ _ => ⟨0x8002, 0xF00F⟩
  | .xor _ _ => ⟨0x8003, 0xF00F⟩
  | .addVxVy _ _ => ⟨0x8004, 0xF00F⟩
  | .sub _ _ => ⟨0x8005, 0xF00F⟩
  | .shr _ _ => ⟨0x8006, 0xF00F⟩
  | .subn _ _ => ⟨0x8007, 0xF00F⟩
  | .shl _ _ => ⟨0x800E, 0xF00F⟩
  | .sneVxVy _ _ => ⟨0x9000, 0xF00F⟩
  | .ldINnn _ => ⟨0xA000, 0xF000⟩
  | .jpV0 _ => ⟨0xB000, 0xF000⟩
  | .rnd _ _ => ⟨0xC000, 0xF000⟩
  | .drw _ _ _ => ⟨0xD000, 0xF000⟩
  | .skp _ => ⟨0xE09E, 0xF0FF⟩
  | .sknp _ => ⟨0xE0A1, 0xF0FF⟩
  | .ldVxDt _ => ⟨0xF007, 0xF0FF⟩
  | .ldVxK _ => ⟨0xF00A, 0xF0FF⟩
  | .ldDtVx _ => ⟨0xF015, 0xF0FF⟩
  | .ldStVx _ => ⟨0xF018, 0xF0FF⟩
  | .addIVx _ => ⟨0xF01E, 0xF0FF⟩
  | .ldFVx _ => ⟨0xF029, 0xF0FF⟩
  | .ldBVx _ => ⟨0xF033, 0xF0FF⟩
  | .ldMemVx _ => ⟨0xF055, 0xF0FF⟩
  | .ldVxMem _ => ⟨0xF065, 0xF0FF⟩

/-- One instruction of each row of groups 0 to 7, in the order of R104 (operands 0). -/
def rowInstrsLow : List Instr :=
  [.cls, .ret, .jp 0, .call 0, .seVxNn 0 0, .sneVxNn 0 0, .seVxVy 0 0, .ldVxNn 0 0, .addVxNn 0 0]

/-- The same for groups 8 and 9. -/
def rowInstrsMiddle : List Instr :=
  [.ldVxVy 0 0, .or 0 0, .and 0 0, .xor 0 0, .addVxVy 0 0, .sub 0 0, .shr 0 0, .subn 0 0, .shl 0 0, .sneVxVy 0 0]

/-- The same for groups A to F. -/
def rowInstrsHigh : List Instr :=
  [.ldINnn 0, .jpV0 0, .rnd 0 0, .drw 0 0 0, .skp 0, .sknp 0, .ldVxDt 0, .ldVxK 0, .ldDtVx 0, .ldStVx 0, .addIVx 0,
    .ldFVx 0, .ldBVx 0, .ldMemVx 0, .ldVxMem 0]

/-- One instruction of every row, in the order of R104. -/
def rowInstrs : List Instr := rowInstrsLow ++ (rowInstrsMiddle ++ rowInstrsHigh)

/-- The 34 rows of R104, in its order. -/
def opcodeRows : List OpcodeRow := rowInstrs.map opcodeRow

/-! ### The table's words -/

/-- The instruction the decoder reads from a table word: bits above `nbits` are 0, and the word is laid out as the
hardware stores it, high byte at the lower address (R78, R100). -/
def decodeTableWord (nbits w : Nat) : Option Instr :=
  let word : Word := BitVec.ofNat 16 (w % 2 ^ nbits)
  match decodeBytes [(bytesOfWord word).1, (bytesOfWord word).2] with
  | .word (.instr i) _ => some i
  | .word (.decodeError _) _ => none
  | .truncated => none

end Sys2Proof
end

