-- ==== Sys2Proof/Config.lean ====
section
/-! DEFINITION. The sizes the source fixes and the parameters it leaves to an implementation
(00_scope.md R7). `Params` is what R7 calls "a model takes every OPEN parameter as an argument": a state carries one
(log 1). The constants without a body are the values no document gives: the font's address and bytes (D1, D2) and the
random bytes (D15); no proof can see what they are. -/

namespace Sys2Proof

/-- The parameters of 00_scope.md R7 that are not fixed by the source. `Params.wf` (WellFormed.lean) states R8. -/
structure Params where
  /-- `FONT_OFFSET`, the address of glyph 0 (OPEN, D1). -/
  fontOffset : Nat
  /-- `FONT_GLYPHS`, the 80 glyph bytes, glyph d at 5*d (OPEN, D2). -/
  fontGlyphs : List Byte
  /-- `STACK_CAPACITY`, the number of stack slots (default 256, at least 16). -/
  stackCapacity : Nat
  /-- `LOAD_OFFSET`, the program counter after `INIT` (default 0x0200, D22). -/
  loadOffset : Word
  /-- `LATCH_CLEAR_ON_STEP` (OPEN, default false, D13). -/
  latchClearOnStep : Bool
  deriving DecidableEq, Repr

namespace Config

/-- `MEM_SIZE` (R7, source §3: "fixed length (4096)"). -/
def memSize : Nat := 4096

/-- `FONT_SIZE` (R7, source §3: 16 glyphs of 5 bytes). -/
def fontSize : Nat := 80

/-- The first address of the program region (20_memory.md R71); the font lies below it (00_scope.md R8). -/
def programBase : Nat := 0x200

/-- `FB_W` (R7). -/
def fbWidth : Nat := 64

/-- `FB_H` (R7). -/
def fbHeight : Nat := 32

/-- `FONT_OFFSET` of the machine after reset: any value R8 allows, so that `FONT_OFFSET + 80 <= 0x0200` (D1, log 1). -/
opaque fontOffset : Fin 433

/-- `FONT_GLYPHS` of the machine after reset: any 80 bytes (D2, log 1). -/
opaque fontGlyphs : Vector Byte 80

/-- The random bytes the host supplies when none is given explicitly: any bytes, under no law (D15, log 2). -/
opaque freeRnd : Nat → Byte

/-- The parameters of the machine after reset: the two values the source lacks are free, the others are R7's defaults
(log 1). -/
def params : Params where
  fontOffset := fontOffset.val
  fontGlyphs := fontGlyphs.toList
  stackCapacity := 256
  loadOffset := 0x0200#16
  latchClearOnStep := false

/-- The conventional glyph bytes that 93_implementation_defined.md G6 offers as a default, from general knowledge.
PRESUMED, log 33: no definition of the machine uses them; only tests do. -/
def conventionalGlyphs : List Byte :=
  [0xF0, 0x90, 0x90, 0x90, 0xF0] ++ [0x20, 0x60, 0x20, 0x20, 0x70] ++
  [0xF0, 0x10, 0xF0, 0x80, 0xF0] ++ [0xF0, 0x10, 0xF0, 0x10, 0xF0] ++
  [0x90, 0x90, 0xF0, 0x10, 0x10] ++ [0xF0, 0x80, 0xF0, 0x10, 0xF0] ++
  [0xF0, 0x80, 0xF0, 0x90, 0xF0] ++ [0xF0, 0x10, 0x20, 0x40, 0x40] ++
  [0xF0, 0x90, 0xF0, 0x90, 0xF0] ++ [0xF0, 0x90, 0xF0, 0x10, 0xF0] ++
  [0xF0, 0x90, 0xF0, 0x90, 0x90] ++ [0xE0, 0x90, 0xE0, 0x90, 0xE0] ++
  [0xF0, 0x80, 0x80, 0x80, 0xF0] ++ [0xE0, 0x90, 0x90, 0x90, 0xE0] ++
  [0xF0, 0x80, 0xF0, 0x80, 0xF0] ++ [0xF0, 0x80, 0xF0, 0x80, 0x80]

end Config

end Sys2Proof
end

