-- ==== Sys2Proof/Machine/State.lean ====
section
/-! DEFINITION. The state of the block: every piece 10_state.md R44 lists and memory (20_memory.md R70), as plain
data, and after them the model's own fields (the parameters, the random input, the last status: log 1, 2, 3). -/

namespace Sys2Proof.Machine

/-- The fatal error kinds (00_scope.md R12, 60_exceptions.md R381 to R385). -/
inductive FatalKind where
  /-- "program counter addressing outside the address space during fetch" (R381). -/
  | fetchBounds
  /-- A push with `SP = STACK_CAPACITY` (R382). -/
  | stackOverflow
  /-- A pop with `SP = 0` (R383). -/
  | stackUnderflow
  /-- A data access at an address `>= MEM_SIZE` (R384). -/
  | memBounds
  /-- A data write into the font region (R385). -/
  | fontWrite
  deriving DecidableEq, Repr

/-- The record `(kind, ia, w)` of a fatal error (10_state.md R43): the kind, the address of the faulting instruction
and its word, `none` when the fetch itself faulted. -/
structure FaultRecord where
  kind : FatalKind
  ia : Word
  word : Option Word
  deriving DecidableEq, Repr

/-- The status a `STEP` returns (40_fetch_decode.md R150). -/
inductive Status where
  /-- "an instruction completed". -/
  | ok
  /-- "FX0A found no latched key and rewound `pc`". -/
  | awaitKey
  /-- "the word w names no instruction". -/
  | decodeError (w : Word)
  /-- "a fatal error at instruction address ia with word w". -/
  | fatal (r : FaultRecord)
  deriving DecidableEq, Repr

/-- Memory: the bytes that differ from the contents `INIT` gives, as (address, byte) pairs with rising addresses
(`Memory.wf` in Ops.lean; log 6). -/
abbrev Memory := List Host.Cell

/-- The framebuffer, 32 rows of 64 pixels; `true` is on (10_state.md R40). -/
abbrev Framebuffer := Vector (Vector Bool 64) 32

/-- The whole state of the block. -/
structure State where
  /-- `V[0]` to `V[15]` (R30, R31). -/
  v : Vector Byte 16
  /-- `I` (R34). -/
  ireg : Word
  /-- The program counter (R35). -/
  pc : Word
  /-- `SP`, the number of return addresses on the stack (R37). -/
  sp : Nat
  /-- `STACK[0]` to `STACK[STACK_CAPACITY-1]` (R37, R38). -/
  stack : List Word
  /-- `DT`, the delay timer (R39). -/
  dt : Byte
  /-- `ST`, the sound timer (R39). -/
  st : Byte
  /-- `FB` (R40). -/
  fb : Framebuffer
  /-- `KEY[0]` to `KEY[15]`; `true` is down (R41). -/
  key : Vector Bool 16
  /-- `LATCH_VALID` (R42). -/
  latchValid : Bool
  /-- `LATCH_KEY` (R42). -/
  latchKey : Nibble
  /-- `FAULT` (R43). -/
  fault : Option FaultRecord
  /-- The address space (20_memory.md R70). -/
  mem : Memory
  /-- The model's own: the parameters of 00_scope.md R7 (log 1). Nothing writes them. -/
  params : Params
  /-- The model's own: the `rnd` byte the next CXNN takes (42_alu.md R222, log 2). -/
  rnd : Byte
  /-- The model's own: how many bytes of the free supply `Config.freeRnd` have been taken (log 2). -/
  rndDraws : Nat
  /-- The model's own: the status the last `STEP` returned (R150, log 3). -/
  status : Status
  deriving DecidableEq, Repr

/-- Why a step could stop the machine for good: it never does. Every fatal error the spec describes is a next state with
`FAULT` set (00_scope.md R12, 60_exceptions.md R387), and `STEP` is total (40_fetch_decode.md R151; log 4). So the type
has no constructor, and no claim can rest on a fault outcome. -/
inductive Fault : Type where
  deriving DecidableEq, Repr

/-- Why `exec` could give an instruction no meaning. -/
inductive Refusal where
  /-- Raised by an arm of `exec` whose instruction is not modelled yet, by its mnemonic; safe (nothing is claimed of
  the instruction). No arm raises it now. -/
  | notModelled (mnemonic : String)
  deriving DecidableEq, Repr

/-- `INIT(load_offset)` of a block with parameters `p` (70_reset_and_hazards.md R420, 10_state.md R44): everything at
its reset value, memory at its `INIT` contents (nothing listed). -/
def State.init (p : Params) (loadOffset : Word) : State where
  v := Vector.replicate 16 0#8
  ireg := 0#16
  pc := loadOffset
  sp := 0
  stack := List.replicate p.stackCapacity 0#16
  dt := 0#8
  st := 0#8
  fb := Vector.replicate 32 (Vector.replicate 64 false)
  key := Vector.replicate 16 false
  latchValid := false
  latchKey := 0#4
  fault := none
  mem := []
  params := p
  rnd := Config.freeRnd 0
  rndDraws := 1
  status := .ok

/-- The machine right after reset: `INIT(LOAD_OFFSET)` (R420: "`INIT` is therefore both power-on and the only
reset"). -/
def State.reset : State := State.init Config.params Config.params.loadOffset

end Sys2Proof.Machine
end

