-- ==== Sys2Proof/WellFormed.lean ====
section
/-! DEFINITION. What is well formed. Of an instruction nothing is left to check: its operands have the widths of their
fields and "Every value of every operand field selects the same instruction" (30_encoding.md R107; log 32). Of the
parameters, 00_scope.md R8 makes four demands. -/

namespace Sys2Proof

/-- Every term of `Instr` is an instruction of the hardware (30_encoding.md R107): operand widths are in the types. -/
def Instr.wf : Instr → Bool
  | .cls | .ret | .jp _ | .call _ | .seVxNn _ _ | .sneVxNn _ _ | .seVxVy _ _ | .ldVxNn _ _ | .addVxNn _ _
  | .ldVxVy _ _ | .or _ _ | .and _ _ | .xor _ _ | .addVxVy _ _ | .sub _ _ | .shr _ _ | .subn _ _ | .shl _ _
  | .sneVxVy _ _ | .ldINnn _ | .jpV0 _ | .rnd _ _ | .drw _ _ _ | .skp _ | .sknp _ | .ldVxDt _ | .ldVxK _
  | .ldDtVx _ | .ldStVx _ | .addIVx _ | .ldFVx _ | .ldBVx _ | .ldMemVx _ | .ldVxMem _ => true

/-- R8: `FONT_OFFSET + FONT_SIZE <= 0x0200`. -/
def Params.fontFits (p : Params) : Bool := decide (p.fontOffset + Config.fontSize ≤ Config.programBase)

/-- R7: `FONT_GLYPHS` is 80 bytes. -/
def Params.glyphsComplete (p : Params) : Bool := decide (p.fontGlyphs.length = Config.fontSize)

/-- R8: `STACK_CAPACITY >= 16`. -/
def Params.stackDeepEnough (p : Params) : Bool := decide (16 ≤ p.stackCapacity)

/-- R8: `LOAD_OFFSET + 1 < MEM_SIZE`. -/
def Params.loadOffsetFetchable (p : Params) : Bool := decide (p.loadOffset.toNat + 1 < Config.memSize)

/-- The parameter constraints of 00_scope.md R8 (with the glyph count of R7). -/
def Params.wf (p : Params) : Bool :=
  p.fontFits && p.glyphsComplete && p.stackDeepEnough && p.loadOffsetFetchable

end Sys2Proof
end

