-- ==== Sys2Proof/Machine/Ops.lean ====
section
/-! DEFINITION. The named operations over the state: registers, memory and its checks, the stack, pixels and keys,
completing an instruction, raising a fatal error (the only exception entry this hardware has, 60_exceptions.md R392),
and the parts of a step that are not an instruction's meaning (40_fetch_decode.md). -/

namespace Sys2Proof.Machine

/-! ### General registers (10_state.md R30) -/

/-- `V[x]`. -/
def State.getV (s : State) (x : Reg) : Byte := s.v[x.toNat]'x.isLt

/-- `V[x] <- b`. -/
def State.setV (s : State) (x : Reg) (b : Byte) : State := { s with v := s.v.set x.toNat b x.isLt }

/-! ### Memory (20_memory.md) -/

/-- The address is in the font region `[FONT_OFFSET, FONT_OFFSET + 80)` (R71). The region lies below the program region
by 00_scope.md R8, which the first test makes use of (log 6). -/
def inFont (p : Params) (a : Nat) : Bool :=
  decide (a < Config.programBase) && (decide (p.fontOffset ≤ a) && decide (a < p.fontOffset + Config.fontSize))

/-- What an address holds after `INIT`, so what an unlisted address reads as: the font bytes in the font region, 0
elsewhere (70_reset_and_hazards.md R420, R421). -/
def initialByte (p : Params) (a : Nat) : Byte :=
  if inFont p a then p.fontGlyphs.getD (a - p.fontOffset) 0#8 else 0#8

/-- The byte at `a`. -/
def Memory.read (p : Params) : Memory → Nat → Byte
  | [], a => initialByte p a
  | c :: rest, a => if c.1 = a then c.2 else Memory.read p rest a

/-- A cell in front of the rest, left out where it holds the `INIT` contents. -/
def Memory.cons (p : Params) (a : Nat) (b : Byte) (m : Memory) : Memory :=
  if b = initialByte p a then m else (a, b) :: m

/-- Store `b` at `a`: "A write changes only the byte it names" (R81). Keeps the canonical form. -/
def Memory.write (p : Params) : Memory → Nat → Byte → Memory
  | [], a, b => Memory.cons p a b []
  | c :: rest, a, b =>
    if a < c.1 then Memory.cons p a b (c :: rest)
    else if a = c.1 then Memory.cons p a b rest
    else c :: Memory.write p rest a b

/-- The addresses rise strictly, from above `low` on, each is an address of the space, and no cell holds the `INIT`
contents of its address. -/
def Memory.wfFrom (p : Params) : Nat → Memory → Bool
  | _, [] => true
  | low, c :: rest =>
    decide (low ≤ c.1) && decide (c.1 < Config.memSize) && decide (c.2 ≠ initialByte p c.1)
      && Memory.wfFrom p (c.1 + 1) rest

/-- The canonical form of a memory: equal memories are equal lists (log 6). -/
def Memory.wf (p : Params) (m : Memory) : Bool := Memory.wfFrom p 0 m

/-- No listed cell lies in the font region: the font is "an immutable built-in glyph table" (R72). -/
def Memory.fontIntact (p : Params) (m : Memory) : Bool := m.all fun c => !inFont p c.1

/-- `MemRead(a, 1)` (00_scope.md R11), for an address that has passed its check. -/
def State.memRead (s : State) (a : Nat) : Byte := Memory.read s.params s.mem a

/-- `MemWrite(a, 1, b)` (00_scope.md R11), for an address that has passed its check. -/
def State.memWrite (s : State) (a : Nat) (b : Byte) : State := { s with mem := Memory.write s.params s.mem a b }

/-- What a data read at `a` raises: `MemBounds` from `MEM_SIZE` on (R75). The address is not reduced (R77). -/
def readFault (a : Nat) : Option FatalKind := if Config.memSize ≤ a then some .memBounds else none

/-- What a data write at `a` raises: `MemBounds` from `MEM_SIZE` on, else `FontWrite` in the font region
(R72, R76, in the order of 43_index_memory.md R264). -/
def writeFault (p : Params) (a : Nat) : Option FatalKind :=
  if Config.memSize ≤ a then some .memBounds
  else if inFont p a then some .fontWrite
  else none

/-- The first failing check over the addresses `base .. base + n - 1`, ascending (40_fetch_decode.md R152). -/
def firstFault (check : Nat → Option FatalKind) (base n : Nat) : Option FatalKind :=
  (List.range n).findSome? fun k => check (base + k)

/-- Store a run of bytes at `a, a + 1, …`, in this order. -/
def State.storeBytes (s : State) (a : Nat) : List Byte → State
  | [] => s
  | b :: rest => (s.memWrite a b).storeBytes (a + 1) rest

/-- The `n` bytes at `a, a + 1, …`. -/
def State.loadBytes (s : State) (a n : Nat) : List Byte := (List.range n).map fun k => s.memRead (a + k)

/-- `V[k], V[k+1], …` receive the bytes of a run, in this order. -/
def State.setRegs (s : State) (k : Nat) : List Byte → State
  | [] => s
  | b :: rest => (s.setV (BitVec.ofNat 4 k) b).setRegs (k + 1) rest

/-- `V[0], …, V[n-1]`. -/
def State.getRegs (s : State) (n : Nat) : List Byte := (List.range n).map fun k => s.getV (BitVec.ofNat 4 k)

/-! ### The call stack (41_control_flow.md R170 to R172) -/

/-- `STACK[j]`; a slot outside the stack reads 0, which no step reaches (log 7). -/
def State.slot (s : State) (j : Nat) : Word := s.stack.getD j 0#16

/-- `Push(v)` (R170): `none` is `StackOverflow`. A `SP` above the capacity, which no step reaches, overflows too (log 7). -/
def State.push (s : State) (w : Word) : Option State :=
  if s.params.stackCapacity ≤ s.sp then none else some { s with stack := s.stack.set s.sp w, sp := s.sp + 1 }

/-- `Pop()` (R171): `none` is `StackUnderflow`; the slot keeps its value (10_state.md R38). -/
def State.pop (s : State) : Option (Word × State) :=
  if s.sp = 0 then none else some (s.slot (s.sp - 1), { s with sp := s.sp - 1 })

/-- `Peek()` (R172), which no instruction uses: `STACK[SP-1]` when `SP > 0` (log 29). -/
def State.peek (s : State) : Option Word := if s.sp = 0 then none else some (s.slot (s.sp - 1))

/-! ### The framebuffer (44_display.md) -/

/-- `FB[x][y]`; outside the 64 x 32 grid there is no pixel (`false`). -/
def getPixel (fb : Framebuffer) (x y : Nat) : Bool := if h : x < 64 ∧ y < 32 then fb[y][x] else false

/-- `FB[x][y] <- FB[x][y] ^ 1` inside the grid; nothing outside it. -/
def flipPixel (fb : Framebuffer) (x y : Nat) : Framebuffer :=
  if h : x < 64 ∧ y < 32 then fb.set y (fb[y].set x (!fb[y][x])) else fb

/-- All pixels off (R300). -/
def clearFb : Framebuffer := Vector.replicate 32 (Vector.replicate 64 false)

/-- `FB[x][y]` of a state. -/
def State.pixel (s : State) (x y : Nat) : Bool := getPixel s.fb x y

/-- One turn of the pixel loop (R301): column `c` of a sprite row drawn at `(x0, py)`. The second component is the
collision flag so far. -/
def blitBit (x0 py : Nat) (row : Byte) (acc : Framebuffer × Bool) (c : Nat) : Framebuffer × Bool :=
  if row.getLsbD (7 - c) = true ∧ x0 + c < Config.fbWidth ∧ py < Config.fbHeight then
    (flipPixel acc.1 (x0 + c) py, acc.2 || getPixel acc.1 (x0 + c) py)
  else acc

/-- One sprite row: columns 0 to 7, "bit 7 leftmost" (R301). -/
def blitRow (x0 py : Nat) (row : Byte) (acc : Framebuffer × Bool) : Framebuffer × Bool :=
  (List.range 8).foldl (blitBit x0 py row) acc

/-- The rows of a sprite from `py` down. -/
def blitRows (x0 : Nat) : Nat → List Byte → Framebuffer × Bool → Framebuffer × Bool
  | _, [], acc => acc
  | py, row :: rest, acc => blitRows x0 (py + 1) rest (blitRow x0 py row acc)

/-- `Blit(x0, y0, rows)` (R301): the new framebuffer and the collision flag. -/
def blit (x0 y0 : Nat) (rows : List Byte) (fb : Framebuffer) : Framebuffer × Bool := blitRows x0 y0 rows (fb, false)

/-! ### Keys (45_input.md) -/

/-- `KEY[k] = 1`. -/
def State.keyDown (s : State) (k : Nibble) : Bool := s.key[k.toNat]'k.isLt

/-- `KEY[k] <- b`. -/
def State.setKey (s : State) (k : Nibble) (b : Bool) : State := { s with key := s.key.set k.toNat b k.isLt }

/-! ### Completing an instruction, skipping, raising -/

/-- The instruction completed: status `OK` (R150). -/
def State.complete (s : State) : State := { s with status := .ok }

/-- "advance program counter by an additional two" (40_fetch_decode.md R144) when the condition holds. -/
def State.skipIf (s : State) (c : Bool) : State := if c then { s with pc := s.pc + 2#16 } else s

/-- `raise Fatal(kind)` (00_scope.md R12) of a step that began at `ia` with word `w`, where `s` differs from the state
before the step in `pc` at most: the state before the step, with `FAULT` and the status set. -/
def State.raise (s : State) (kind : FatalKind) (ia : Word) (w : Option Word) : State :=
  { s with pc := ia, fault := some ⟨kind, ia, w⟩, status := .fatal ⟨kind, ia, w⟩ }

/-- `ia`, the address the instruction in execution was fetched from: `pc` holds `ia + 2` (40_fetch_decode.md R144, log 5). -/
def State.ia (s : State) : Word := s.pc - 2#16

/-- `raise Fatal(kind)` by the instruction `i` in execution: its address is `ia`, its word is `encode i` (log 5). -/
def State.raiseIn (s : State) (kind : FatalKind) (i : Instr) : State := s.raise kind s.ia (some (encode i))

/-- Run `next` when no check failed, else raise what failed: "every check that can raise is evaluated before the first
state write" (00_scope.md R12). -/
def State.checked (s : State) (failed : Option FatalKind) (i : Instr) (next : State) : State :=
  match failed with
  | some kind => s.raiseIn kind i
  | none => next

/-! ### The parts of a step (40_fetch_decode.md R140) -/

/-- `FetchWord(pc)` (00_scope.md R11, R141): `none` when `pc + 1 >= MEM_SIZE`, else the big-endian word. -/
def State.fetchWord (s : State) : Option Word :=
  if Config.memSize ≤ s.pc.toNat + 1 then none
  else some (wordOfBytes (s.memRead s.pc.toNat) (s.memRead (s.pc.toNat + 1)))

/-- The fetch's advance: `pc <- pc + 2` (R141). -/
def State.advance (s : State) : State := { s with pc := s.pc + 2#16 }

/-- A step of a faulted block: nothing changes, and the record is returned again (60_exceptions.md R387). -/
def State.repeatFatal (s : State) (r : FaultRecord) : State := { s with status := .fatal r }

/-- A fetch outside the address space: `raise Fatal(FetchBounds)`, `w = none`, `pc` unchanged (R141, R381). -/
def State.raiseFetch (s : State) : State := s.raise .fetchBounds s.pc none

/-- A word that names no instruction: status `DECODE_ERROR(w)`, nothing else (R147). -/
def State.reportDecodeError (s : State) (w : Word) : State := { s with status := .decodeError w }

/-- The end of a completed step: with `LATCH_CLEAR_ON_STEP` the latch is cleared (R140, 45_input.md R343); a fatal step
is not a completed one. -/
def State.endStep (s : State) : State :=
  if s.params.latchClearOnStep && s.fault.isNone then { s with latchValid := false } else s

/-! ### Placing a word where the next step fetches (log 10) -/

/-- The address of the next fetch can be fetched from (R74). -/
def State.pcFetchable (s : State) : Bool := decide (s.pc.toNat + 1 < Config.memSize)

/-- `w` stored, big-endian, where the next step fetches. A faulted block is made runnable and a `pc` nothing can be
fetched from becomes 0x0200, since otherwise no step would fetch; nothing else changes. -/
def State.placeWord (s : State) (w : Word) : State :=
  let pc := if s.pcFetchable then s.pc else 0x0200#16
  let t : State := { s with pc := pc, fault := none }
  t.storeBytes pc.toNat [(bytesOfWord w).1, (bytesOfWord w).2]

end Sys2Proof.Machine
end

