-- ==== Sys2Proof/Machine/Flags.lean ====
section
/-! DEFINITION. The flag outputs VF receives (10_state.md R33, 42_alu.md R221): carry, no borrow, shifted-out bit,
collision; each is the byte 0 or 1 (90_conflicts.md C4), written after the result (00_scope.md R13). -/

namespace Sys2Proof.Machine

/-- A flag as VF holds it: 1 or 0. -/
def flagByte (b : Bool) : Byte := if b then 1#8 else 0#8

/-- The carry of 8XY4: `sum > 255` (R216). -/
def carryOut (a b : Byte) : Bool := decide (255 < a.toNat + b.toNat)

/-- The flag of 8XY5 and 8XY7: "minuend >= subtrahend" (R221), no borrow. -/
def noBorrow (minuend subtrahend : Byte) : Bool := decide (subtrahend.toNat ≤ minuend.toNat)

/-- The bit 8XY6 shifts out: `old_V[x] & 1` (R218). -/
def shiftedOutRight (a : Byte) : Bool := a.getLsbD 0

/-- The bit 8XYE shifts out: `(old_V[x] >> 7) & 1` (R220). -/
def shiftedOutLeft (a : Byte) : Bool := a.getLsbD 7

/-- `V[x] <- result`, then `VF <- flag`: "The flag write is last, so it wins when `x = 0xF`" (R13). -/
def State.setVFlag (s : State) (x : Reg) (result : Byte) (flag : Bool) : State :=
  (s.setV x result).setV VF (flagByte flag)

end Sys2Proof.Machine
end

