-- ==== Sys2Proof/Machine/Operands.lean ====
section
/-! DEFINITION. Operand forms: how a field or a register becomes an address, a key number, a coordinate
(30_encoding.md R102, 20_memory.md R77, 43_index_memory.md R262, 44_display.md R302, 45_input.md R330). -/

namespace Sys2Proof.Machine

/-- NNN as an address: "zero-extended to 16 bits when written to `pc` or `I`" (R102). -/
def zextAddr (nnn : Addr12) : Word := nnn.setWidth 16

/-- A byte zero-extended to 16 bits (R102). -/
def zextByte (b : Byte) : Word := b.setWidth 16

/-- The effective address `I + 0` as an unbounded natural (R77); `I + k` is `indexAddr + k`. -/
def State.indexAddr (s : State) : Nat := s.ireg.toNat

/-- "the key numbered by register X's low 4 bits" (45_input.md R330). -/
def keyNumber (b : Byte) : Nibble := b.setWidth 4

/-- The glyph address for a register value: `FONT_OFFSET + 5 * (v & 0x0F)` (43_index_memory.md R262). -/
def glyphAddr (p : Params) (b : Byte) : Word := BitVec.ofNat 16 (p.fontOffset + 5 * (b &&& 0x0F#8).toNat)

/-- The sprite's column: `V[x] mod 64` (R302). -/
def spriteX (b : Byte) : Nat := b.toNat % Config.fbWidth

/-- The sprite's row: `V[y] mod 32` (R302). -/
def spriteY (b : Byte) : Nat := b.toNat % Config.fbHeight

/-- "the last register stored" or loaded: registers 0..x are x + 1 registers (R265, R266). -/
def regCount (x : Reg) : Nat := x.toNat + 1

/-- The hundreds, tens and ones digits of a byte (R264). -/
def decimalDigits (b : Byte) : List Byte :=
  [BitVec.ofNat 8 (b.toNat / 100), BitVec.ofNat 8 (b.toNat / 10 % 10), BitVec.ofNat 8 (b.toNat % 10)]

end Sys2Proof.Machine
end

