-- ==== Sys2Proof/Machine/Alu.lean ====
section
/-! DEFINITION. The register-file ALU (42_alu.md). Operands are read before any result is written, and the flag is
written last (00_scope.md R13). -/

namespace Sys2Proof.Machine

/-- LD Vx, nn (R210). -/
def execLdVxNn (x : Reg) (nn : Byte) (s : State) : Host.Outcome State Fault Refusal :=
  .next (s.setV x nn).complete

/-- ADD Vx, nn (R211): wraps modulo 256, VF is not written as a flag. -/
def execAddVxNn (x : Reg) (nn : Byte) (s : State) : Host.Outcome State Fault Refusal :=
  .next (s.setV x (s.getV x + nn)).complete

/-- LD Vx, Vy (R212). -/
def execLdVxVy (x y : Reg) (s : State) : Host.Outcome State Fault Refusal :=
  .next (s.setV x (s.getV y)).complete

/-- OR Vx, Vy (R213); VF is not written as a flag (log 15). -/
def execOr (x y : Reg) (s : State) : Host.Outcome State Fault Refusal :=
  .next (s.setV x (s.getV x ||| s.getV y)).complete

/-- AND Vx, Vy (R214); VF is not written as a flag (log 15). -/
def execAnd (x y : Reg) (s : State) : Host.Outcome State Fault Refusal :=
  .next (s.setV x (s.getV x &&& s.getV y)).complete

/-- XOR Vx, Vy (R215); VF is not written as a flag (log 15). -/
def execXor (x y : Reg) (s : State) : Host.Outcome State Fault Refusal :=
  .next (s.setV x (s.getV x ^^^ s.getV y)).complete

/-- ADD Vx, Vy (R216): VF = carry. -/
def execAddVxVy (x y : Reg) (s : State) : Host.Outcome State Fault Refusal :=
  .next (s.setVFlag x (s.getV x + s.getV y) (carryOut (s.getV x) (s.getV y))).complete

/-- SUB Vx, Vy (R217): VF = no borrow. -/
def execSub (x y : Reg) (s : State) : Host.Outcome State Fault Refusal :=
  .next (s.setVFlag x (s.getV x - s.getV y) (noBorrow (s.getV x) (s.getV y))).complete

/-- SHR Vx, Vy (R218): V[x] is shifted in place and y is ignored (log 14). -/
def execShr (x _y : Reg) (s : State) : Host.Outcome State Fault Refusal :=
  .next (s.setVFlag x (s.getV x >>> 1) (shiftedOutRight (s.getV x))).complete

/-- SUBN Vx, Vy (R219): VF = no borrow of Y - X. -/
def execSubn (x y : Reg) (s : State) : Host.Outcome State Fault Refusal :=
  .next (s.setVFlag x (s.getV y - s.getV x) (noBorrow (s.getV y) (s.getV x))).complete

/-- SHL Vx, Vy (R220): V[x] is shifted in place and y is ignored (log 14). -/
def execShl (x _y : Reg) (s : State) : Host.Outcome State Fault Refusal :=
  .next (s.setVFlag x (s.getV x <<< 1) (shiftedOutLeft (s.getV x))).complete

/-- RND Vx, nn (R222): `V[x] <- rnd & nn`, and the next CXNN takes another byte of the free supply (log 2). -/
def execRnd (x : Reg) (nn : Byte) (s : State) : Host.Outcome State Fault Refusal :=
  .next { s.setV x (s.rnd &&& nn) with rnd := Config.freeRnd s.rndDraws, rndDraws := s.rndDraws + 1 }.complete

end Sys2Proof.Machine
end

