-- ==== Sys2Proof/Machine/Control.lean ====
section
/-! DEFINITION. Control flow and the call stack (41_control_flow.md). In every meaning `s.pc` is the already-advanced
value `ia + 2` (40_fetch_decode.md R144). -/

namespace Sys2Proof.Machine

/-- RET (R173): `pc <- Pop()`; `StackUnderflow` when `SP = 0`. -/
def execRet (s : State) : Host.Outcome State Fault Refusal :=
  .next (match s.pop with
    | none => s.raiseIn .stackUnderflow .ret
    | some (target, t) => { t with pc := target }.complete)

/-- JP nnn (R174): `pc <- nnn`. -/
def execJp (nnn : Addr12) (s : State) : Host.Outcome State Fault Refusal :=
  .next { s with pc := zextAddr nnn }.complete

/-- CALL nnn (R175): `Push(pc); pc <- nnn`; `StackOverflow` when the stack is full. -/
def execCall (nnn : Addr12) (s : State) : Host.Outcome State Fault Refusal :=
  .next (match s.push s.pc with
    | none => s.raiseIn .stackOverflow (.call nnn)
    | some t => { t with pc := zextAddr nnn }.complete)

/-- SE Vx, nn (R176). -/
def execSeVxNn (x : Reg) (nn : Byte) (s : State) : Host.Outcome State Fault Refusal :=
  .next (s.skipIf (s.getV x == nn)).complete

/-- SNE Vx, nn (R177). -/
def execSneVxNn (x : Reg) (nn : Byte) (s : State) : Host.Outcome State Fault Refusal :=
  .next (s.skipIf (s.getV x != nn)).complete

/-- SE Vx, Vy (R178). -/
def execSeVxVy (x y : Reg) (s : State) : Host.Outcome State Fault Refusal :=
  .next (s.skipIf (s.getV x == s.getV y)).complete

/-- SNE Vx, Vy (R179). -/
def execSneVxVy (x y : Reg) (s : State) : Host.Outcome State Fault Refusal :=
  .next (s.skipIf (s.getV x != s.getV y)).complete

/-- JP V0, nnn (R180): `pc <- V[0] + nnn`, not reduced modulo 4096. -/
def execJpV0 (nnn : Addr12) (s : State) : Host.Outcome State Fault Refusal :=
  .next { s with pc := zextByte (s.getV 0x0#4) + zextAddr nnn }.complete

end Sys2Proof.Machine
end

