-- ==== Sys2Proof/Machine/Display.lean ====
section
/-! DEFINITION. The framebuffer rasterizer (44_display.md). -/

namespace Sys2Proof.Machine

/-- CLS (R300): every pixel off. -/
def execCls (s : State) : Host.Outcome State Fault Refusal :=
  .next { s with fb := clearFb }.complete

/-- The drawing of R302, after its checks: the pixels first, then `VF <- Blit(x0, y0, rows)`. -/
def State.draw (s : State) (x y : Reg) (n : Nibble) : State :=
  let drawn := blit (spriteX (s.getV x)) (spriteY (s.getV y)) (s.loadBytes s.indexAddr n.toNat) s.fb
  { s with fb := drawn.1 }.setV VF (flagByte drawn.2)

/-- DRW Vx, Vy, n (R302): all n bytes are checked and read, clipped or not (log 24). -/
def execDrw (x y : Reg) (n : Nibble) (s : State) : Host.Outcome State Fault Refusal :=
  .next (s.checked (firstFault readFault s.indexAddr n.toNat) (.drw x y n) (s.draw x y n).complete)

end Sys2Proof.Machine
end

