-- ==== Sys2Proof/Machine/IndexMemory.lean ====
section
/-! DEFINITION. The index register and memory instructions (43_index_memory.md). None of the memory moves writes `I`
(R263), and all checks come before any write (00_scope.md R12). -/

namespace Sys2Proof.Machine

/-- LD I, nnn (R260). -/
def execLdINnn (nnn : Addr12) (s : State) : Host.Outcome State Fault Refusal :=
  .next { s with ireg := zextAddr nnn }.complete

/-- ADD I, Vx (R261): modulo 65536, no flag (log 20). -/
def execAddIVx (x : Reg) (s : State) : Host.Outcome State Fault Refusal :=
  .next { s with ireg := s.ireg + zextByte (s.getV x) }.complete

/-- LD F, Vx (R262): the glyph of the low nibble (log 21). -/
def execLdFVx (x : Reg) (s : State) : Host.Outcome State Fault Refusal :=
  .next { s with ireg := glyphAddr s.params (s.getV x) }.complete

/-- LD B, Vx (R264): the three decimal digits at `I`, `I + 1`, `I + 2`. -/
def execLdBVx (x : Reg) (s : State) : Host.Outcome State Fault Refusal :=
  .next (s.checked (firstFault (writeFault s.params) s.indexAddr 3) (.ldBVx x)
    (s.storeBytes s.indexAddr (decimalDigits (s.getV x))).complete)

/-- LD [I], Vx (R265): V0..Vx at `I .. I + x`. -/
def execLdMemVx (x : Reg) (s : State) : Host.Outcome State Fault Refusal :=
  .next (s.checked (firstFault (writeFault s.params) s.indexAddr (regCount x)) (.ldMemVx x)
    (s.storeBytes s.indexAddr (s.getRegs (regCount x))).complete)

/-- LD Vx, [I] (R266): V0..Vx from `I .. I + x`. -/
def execLdVxMem (x : Reg) (s : State) : Host.Outcome State Fault Refusal :=
  .next (s.checked (firstFault readFault s.indexAddr (regCount x)) (.ldVxMem x)
    (s.setRegs 0 (s.loadBytes s.indexAddr (regCount x))).complete)

end Sys2Proof.Machine
end

