-- ==== Sys2Proof/Machine/Input.lean ====
section
/-! DEFINITION. The key skips and the blocking key read (45_input.md). -/

namespace Sys2Proof.Machine

/-- SKP Vx (R330). -/
def execSkp (x : Reg) (s : State) : Host.Outcome State Fault Refusal :=
  .next (s.skipIf (s.keyDown (keyNumber (s.getV x)))).complete

/-- SKNP Vx (R331). -/
def execSknp (x : Reg) (s : State) : Host.Outcome State Fault Refusal :=
  .next (s.skipIf (!s.keyDown (keyNumber (s.getV x)))).complete

/-- LD Vx, K (R332): a latched key is consumed; without one `pc` is rewound by two and the status is `AWAIT_KEY`. -/
def execLdVxK (x : Reg) (s : State) : Host.Outcome State Fault Refusal :=
  .next (if s.latchValid then { s.setV x (s.latchKey.setWidth 8) with latchValid := false }.complete
    else { s with pc := s.pc - 2#16, status := .awaitKey })

end Sys2Proof.Machine
end

