-- ==== Sys2Proof/Machine/Timers.lean ====
section
/-! DEFINITION. The timer instructions (46_timers.md). No step counts a timer (40_fetch_decode.md R146). -/

namespace Sys2Proof.Machine

/-- LD Vx, DT (R360). -/
def execLdVxDt (x : Reg) (s : State) : Host.Outcome State Fault Refusal :=
  .next (s.setV x s.dt).complete

/-- LD DT, Vx (R361). -/
def execLdDtVx (x : Reg) (s : State) : Host.Outcome State Fault Refusal :=
  .next { s with dt := s.getV x }.complete

/-- LD ST, Vx (R362). -/
def execLdStVx (x : Reg) (s : State) : Host.Outcome State Fault Refusal :=
  .next { s with st := s.getV x }.complete

end Sys2Proof.Machine
end

