-- ==== Sys2Proof/Machine/Step.lean ====
section
/-! DEFINITION. One `STEP` (40_fetch_decode.md R140), in the order of its checks (R152): the faulted state, the fetch
bound, decode, the instruction. Every part is an operation of Ops.lean or `exec`. -/

namespace Sys2Proof.Machine

/-- `STEP` (R140), its `rnd` input standing in the state (log 2). -/
def step (s : State) : Host.Outcome State Fault Refusal :=
  match s.fault with
  | some r => .next (s.repeatFatal r)
  | none =>
    match s.fetchWord with
    | none => .next s.raiseFetch
    | some w =>
      match decode w with
      | .decodeError u => .next (s.advance.reportDecodeError u).endStep
      | .instr i =>
        match exec i s.advance with
        | .next t => .next t.endStep
        | .fault f => .fault f
        | .refused r => .refused r

/-- `s` with the word of a table row stored where `step` fetches its next instruction (log 10): bit 0 of `w` is the
word's least significant bit, and bits from `nbits` up are 0. -/
def State.withFetchWord (s : State) (nbits w : Nat) : State := s.placeWord (BitVec.ofNat 16 (w % 2 ^ nbits))

end Sys2Proof.Machine
end

