-- ==== Sys2Proof/Machine/Transactions.lean ====
section
/-! DEFINITION. The host's transactions (00_scope.md R5), each performed whole between steps (20_memory.md R88).
`transact` performs any of them; `transactAll` is the interleaving a host chooses, as a list (log 9). -/

namespace Sys2Proof.Machine

/-- The transactions of 00_scope.md R5. -/
inductive Transaction where
  /-- `INIT(load_offset)` (R420). -/
  | init (loadOffset : Word)
  /-- `LOAD(offset, bytes)` (R424); `none` is a source that cannot be read (R389, log 12). -/
  | load (offset : Nat) (bytes : Option (List Byte))
  /-- `STEP(rnd)` (R140). -/
  | step (rnd : Byte)
  /-- `TICK()` (R370). -/
  | tick
  /-- `KEY_DOWN(k)` (R340). -/
  | keyDown (k : Nat)
  /-- `KEY_UP(k)` (R341). -/
  | keyUp (k : Nat)
  /-- `PIXEL(x, y)` (R310). -/
  | pixel (x y : Nat)
  /-- `SOUND()` (R373). -/
  | sound
  deriving DecidableEq, Repr

/-- What a transaction returns (R5, column outputs). -/
inductive Response where
  /-- No output (`INIT`, `TICK`). -/
  | nothing
  | ok
  | loadError
  | refused
  /-- The status of a `STEP` (R150). -/
  | status (st : Status)
  /-- The bit of a `PIXEL`. -/
  | bit (b : Bool)
  /-- The byte of a `SOUND`. -/
  | byte (b : Byte)
  deriving DecidableEq, Repr

/-- The fatal kinds' numeric codes (60_exceptions.md R381 to R386). -/
def FatalKind.code : FatalKind → Nat
  | .fetchBounds => 1
  | .stackOverflow => 2
  | .stackUnderflow => 3
  | .memBounds => 4
  | .fontWrite => 5

/-- `INIT(load_offset)` (R420): every piece of state at its reset value; the parameters and the supply of random bytes
are no state of the block and stay (log 11). -/
def State.initialise (s : State) (loadOffset : Word) : State :=
  { State.init s.params loadOffset with rnd := s.rnd, rndDraws := s.rndDraws }

/-- A byte string fits at an offset: inside the address space and clear of the font region (R424). -/
def loadFits (p : Params) (offset : Nat) (bytes : List Byte) : Bool :=
  decide (offset + bytes.length ≤ Config.memSize)
    && (List.range bytes.length).all fun k => !inFont p (offset + k)

/-- `LOAD(offset, bytes)` (R424): copies the bytes verbatim or changes nothing; it writes no register, `pc` neither. -/
def State.load (s : State) (offset : Nat) : Option (List Byte) → Response × State
  | none => (.loadError, s)
  | some bytes => if loadFits s.params offset bytes then (.ok, s.storeBytes offset bytes) else (.loadError, s)

/-- `STEP(rnd)` (R140) as a state; the step's status is in it (log 3). -/
def State.stepWith (s : State) (rnd : Byte) : Response × State :=
  match Sys2Proof.Machine.step { s with rnd := rnd } with
  | .next t => (.status t.status, t)
  | .fault f => nomatch f
  | .refused _ => (.refused, s)

/-- A timer counted down by one, "floored at zero" (R370). -/
def countDown (b : Byte) : Byte := if b = 0#8 then 0#8 else b - 1#8

/-- `TICK()` (R370): each timer independently. -/
def State.tick (s : State) : State := { s with dt := countDown s.dt, st := countDown s.st }

/-- `KEY_DOWN(k)` for a key of the block (R340): the key is down and is the latest newly pressed one. -/
def State.pressKey (s : State) (k : Nibble) : State := { s.setKey k true with latchKey := k, latchValid := true }

/-- `KEY_UP(k)` for a key of the block (R341): the latch is not touched. -/
def State.releaseKey (s : State) (k : Nibble) : State := s.setKey k false

/-- Perform one transaction: its output and the state after it. -/
def transact (t : Transaction) (s : State) : Response × State :=
  match t with
  | .init loadOffset => (.nothing, s.initialise loadOffset)
  | .load offset bytes => s.load offset bytes
  | .step rnd => s.stepWith rnd
  | .tick => (.nothing, s.tick)
  | .keyDown k => if k < 16 then (.ok, s.pressKey (BitVec.ofNat 4 k)) else (.refused, s)
  | .keyUp k => if k < 16 then (.ok, s.releaseKey (BitVec.ofNat 4 k)) else (.refused, s)
  | .pixel x y => if x < Config.fbWidth ∧ y < Config.fbHeight then (.bit (s.pixel x y), s) else (.refused, s)
  | .sound => (.byte s.st, s)

/-- A whole schedule of transactions, in the order the host chose (R88): the outputs and the last state. -/
def transactAll : List Transaction → State → List Response × State
  | [], s => ([], s)
  | t :: rest, s => ((transact t s).1 :: (transactAll rest (transact t s).2).1, (transactAll rest (transact t s).2).2)

end Sys2Proof.Machine
end

