-- ==== Sys2Proof/Safety.lean ====
section
/-! DEFINITION. The terms claims use: what a step will run, what two states share (frames), which registers an instruction
writes (10_state.md R32), where the bytes of a memory move go, and the invariant of the block. -/

namespace Sys2Proof.Machine

/-! ### What the next step runs -/

/-- The next step fetches `w`: the block is not faulted and `w` stands at `pc` (40_fetch_decode.md R140, R141). -/
def State.WillFetch (s : State) (w : Word) : Prop := s.fault = none ∧ s.fetchWord = some w

/-- The next step executes `i`. -/
def State.WillRun (s : State) (i : Instr) : Prop := ∃ w, s.WillFetch w ∧ decode w = .instr i

/-! ### What two states share -/

/-- Every general register outside `W` is the same. -/
def SameRegsExcept (W : List Reg) (s t : State) : Prop := ∀ r, r ∉ W → t.getV r = s.getV r

/-- Every byte of memory reads the same. -/
def SameMemory (s t : State) : Prop := ∀ a, t.memRead a = s.memRead a

/-- Every byte of memory outside the `n` bytes from `a` on reads the same. -/
def SameMemoryOutside (a n : Nat) (s t : State) : Prop := ∀ b, b < a ∨ a + n ≤ b → t.memRead b = s.memRead b

/-- `SP` and every stack slot are the same. -/
def SameStack (s t : State) : Prop := t.sp = s.sp ∧ ∀ j, t.slot j = s.slot j

/-- `DT` and `ST` are the same. -/
def SameTimers (s t : State) : Prop := t.dt = s.dt ∧ t.st = s.st

/-- Every pixel is the same. -/
def SameDisplay (s t : State) : Prop := ∀ x y, t.pixel x y = s.pixel x y

/-- Every key and the latch are the same. -/
def SameInput (s t : State) : Prop :=
  (∀ k, t.keyDown k = s.keyDown k) ∧ t.latchValid = s.latchValid ∧ t.latchKey = s.latchKey

/-- The parameters and the supply of random bytes (the model's own fields) are the same. -/
def SameSupply (s t : State) : Prop := t.params = s.params ∧ t.rnd = s.rnd ∧ t.rndDraws = s.rndDraws

/-- Stack, timers, display, keys, latch, `FAULT` and the model's inputs are the same: all but `V`, `I`, `pc`, memory and the
status. -/
structure SameRest (s t : State) : Prop where
  stack : SameStack s t
  timers : SameTimers s t
  display : SameDisplay s t
  input : SameInput s t
  fault : t.fault = s.fault
  supply : SameSupply s t

/-- All but the general registers in `W` is the same, and the status is `OK`: what a register-only instruction leaves. -/
structure OnlyRegs (W : List Reg) (s t : State) : Prop where
  regs : SameRegsExcept W s t
  index : t.ireg = s.ireg
  pc : t.pc = s.pc
  memory : SameMemory s t
  rest : SameRest s t
  status : t.status = .ok

/-- All but `pc` is the same, and the status is `OK`: what a transfer of control leaves. -/
structure OnlyPc (s t : State) : Prop where
  regs : SameRegsExcept [] s t
  index : t.ireg = s.ireg
  memory : SameMemory s t
  rest : SameRest s t
  status : t.status = .ok

/-- All but `I` is the same, and the status is `OK`. -/
structure OnlyIndex (s t : State) : Prop where
  regs : SameRegsExcept [] s t
  pc : t.pc = s.pc
  memory : SameMemory s t
  rest : SameRest s t
  status : t.status = .ok

/-- All but the `n` bytes of memory from `a` on is the same, and the status is `OK`: what a store leaves. -/
structure OnlyBytes (a n : Nat) (s t : State) : Prop where
  regs : SameRegsExcept [] s t
  index : t.ireg = s.ireg
  pc : t.pc = s.pc
  memory : SameMemoryOutside a n s t
  rest : SameRest s t
  status : t.status = .ok

/-- The state before the step of the instruction in execution, with `FAULT` and the status telling of the fatal error:
`pc` is back at `ia`, and everything else is as before (00_scope.md R12). -/
structure RaisedIn (s t : State) (kind : FatalKind) (i : Instr) : Prop where
  regs : SameRegsExcept [] s t
  index : t.ireg = s.ireg
  pc : t.pc = s.ia
  memory : SameMemory s t
  stack : SameStack s t
  timers : SameTimers s t
  display : SameDisplay s t
  input : SameInput s t
  supply : SameSupply s t
  fault : t.fault = some ⟨kind, s.ia, some (encode i)⟩
  status : t.status = .fatal ⟨kind, s.ia, some (encode i)⟩

/-! ### Who writes what -/

/-- The general registers an instruction writes (10_state.md R32). -/
def writtenRegs : Instr → List Reg
  | .ldVxNn x _ | .addVxNn x _ | .ldVxVy x _ | .or x _ | .and x _ | .xor x _ | .rnd x _ | .ldVxDt x | .ldVxK x => [x]
  | .addVxVy x _ | .sub x _ | .shr x _ | .subn x _ | .shl x _ => [x, VF]
  | .drw _ _ _ => [VF]
  | .ldVxMem x => (List.range (regCount x)).map (BitVec.ofNat 4)
  | .cls | .ret | .jp _ | .call _ | .seVxNn _ _ | .sneVxNn _ _ | .seVxVy _ _ | .sneVxVy _ _ | .ldINnn _ | .jpV0 _
  | .skp _ | .sknp _ | .ldDtVx _ | .ldStVx _ | .addIVx _ | .ldFVx _ | .ldBVx _ | .ldMemVx _ => []

/-- The instruction writes `pc` beyond the fetch's advance (10_state.md R35, 40_fetch_decode.md R145). -/
def writesPc : Instr → Bool
  | .ret | .jp _ | .call _ | .jpV0 _ | .seVxNn _ _ | .sneVxNn _ _ | .seVxVy _ _ | .sneVxVy _ _ | .skp _ | .sknp _
  | .ldVxK _ => true
  | .cls | .ldVxNn _ _ | .addVxNn _ _ | .ldVxVy _ _ | .or _ _ | .and _ _ | .xor _ _ | .addVxVy _ _ | .sub _ _ | .shr _ _
  | .subn _ _ | .shl _ _ | .ldINnn _ | .rnd _ _ | .drw _ _ _ | .ldVxDt _ | .ldDtVx _ | .ldStVx _ | .addIVx _ | .ldFVx _
  | .ldBVx _ | .ldMemVx _ | .ldVxMem _ => false

/-- How many bytes an instruction stores from `I` on (20_memory.md R80). -/
def storedBytes : Instr → Nat
  | .ldBVx _ => 3
  | .ldMemVx x => regCount x
  | .cls | .ret | .jp _ | .call _ | .seVxNn _ _ | .sneVxNn _ _ | .seVxVy _ _ | .ldVxNn _ _ | .addVxNn _ _
  | .ldVxVy _ _ | .or _ _ | .and _ _ | .xor _ _ | .addVxVy _ _ | .sub _ _ | .shr _ _ | .subn _ _ | .shl _ _
  | .sneVxVy _ _ | .ldINnn _ | .jpV0 _ | .rnd _ _ | .drw _ _ _ | .skp _ | .sknp _ | .ldVxDt _ | .ldVxK _
  | .ldDtVx _ | .ldStVx _ | .addIVx _ | .ldFVx _ | .ldVxMem _ => 0

/-! ### Sprites -/

/-- The sprite has a set bit that falls on pixel `(px, py)` when drawn at `(x0, y0)`: row `py - y0`, column `px - x0`,
"bit 7 leftmost" (44_display.md R301). -/
def spriteBit (x0 y0 : Nat) (rows : List Byte) (px py : Nat) : Bool :=
  decide (x0 ≤ px ∧ px < x0 + 8 ∧ y0 ≤ py ∧ py < y0 + rows.length)
    && (rows.getD (py - y0) 0#8).getLsbD (7 - (px - x0))

/-- The pixel is on the 64 x 32 grid (10_state.md R40). -/
def OnGrid (px py : Nat) : Prop := px < Config.fbWidth ∧ py < Config.fbHeight

/-! ### The invariant -/

/-- The record names an instruction that can raise its kind ("Raised by", 60_exceptions.md R381 to R385); only a fetch
fault has no word. -/
def FaultRecord.Legal (r : FaultRecord) : Prop :=
  match r.kind with
  | .fetchBounds => r.word = none
  | .stackOverflow => ∃ nnn, r.word = some (encode (.call nnn))
  | .stackUnderflow => r.word = some (encode .ret)
  | .memBounds => (∃ x y n, r.word = some (encode (.drw x y n))) ∨ (∃ x, r.word = some (encode (.ldBVx x)))
      ∨ (∃ x, r.word = some (encode (.ldMemVx x))) ∨ ∃ x, r.word = some (encode (.ldVxMem x))
  | .fontWrite => (∃ x, r.word = some (encode (.ldBVx x))) ∨ ∃ x, r.word = some (encode (.ldMemVx x))

/-- What holds of every state of a block whose parameters meet 00_scope.md R8: the memory is in canonical form and the
font is what `INIT` put there (20_memory.md R72), the stack has its capacity and `SP` stays within it (10_state.md R37),
`pc` and the return addresses stay within the bounds of 10_state.md R36, and a fault record tells of the state it
froze (00_scope.md R12, 60_exceptions.md R381 to R385). -/
structure State.Inv (s : State) : Prop where
  params : s.params.wf = true
  memory : Memory.wf s.params s.mem = true
  font : Memory.fontIntact s.params s.mem = true
  stackLength : s.stack.length = s.params.stackCapacity
  spBound : s.sp ≤ s.params.stackCapacity
  pcBound : s.pc.toNat ≤ 0x10FE
  returnBound : ∀ w ∈ s.stack, w.toNat ≤ 0x1000
  record : ∀ r, s.fault = some r → s.status = .fatal r ∧ r.ia = s.pc ∧ r.Legal

end Sys2Proof.Machine
end

