-- ==== Sys2Proof/Certificates/Slice0/Obligations.lean ====
section
/-! DEFINITION. The statements for the provers. Each docstring names the rule of spec/ it formalises, or says what it is
derived from. In every statement about `exec`, the state `s` is the state during `Execute`: `s.pc` is `ia + 2`
(40_fetch_decode.md R144). -/

open Sys2Proof Sys2Proof.Machine

/-! ### Encoding and decoding (30_encoding.md) -/

/-- Decoding the encoding of any instruction gives it back, operands and all (R101, R104). -/
def Obligations.DecodeOfEncodeIsTheInstruction : Prop :=
  ∀ i : Instr, i.wf = true → decode (encode i) = .instr i

/-- Each word has one meaning: a word that decodes to an instruction is that instruction's encoding, so no bit is
dropped and a fatal error records the word that was fetched (00_scope.md R12). -/
def Obligations.EncodeOfDecodeIsTheWord : Prop :=
  ∀ (w : Word) (i : Instr), decode w = .instr i → encode i = w

/-- R106: decoding is a function from all words to one instruction of R104 or a decode error; the rows are disjoint; a
word that matches no row is a decode error. -/
def Obligations.EveryWordFitsOneRowOrIsADecodeError : Prop :=
  opcodeRows.length = 34 ∧ opcodeRows.Nodup ∧
  (∀ (w : Word) (r r' : OpcodeRow), r ∈ opcodeRows → r' ∈ opcodeRows →
    w &&& r.mask = r.pattern → w &&& r'.mask = r'.pattern → r = r') ∧
  ∀ w : Word,
    (∃ i, decode w = .instr i ∧ opcodeRow i ∈ opcodeRows ∧ w &&& (opcodeRow i).mask = (opcodeRow i).pattern) ∨
    (decode w = .decodeError w ∧ ∀ r, r ∈ opcodeRows → w &&& r.mask ≠ r.pattern)

/-- The decode-error words of R108's table, group by group. Derived: strict decoding is the spec's own reading (D6, log
16), and the nibbles of group 8 are R105's (D3, log 13). -/
def Obligations.DecodeErrorWordsByGroup : Prop :=
  ∀ w : Word, decode w = .decodeError w ↔
    (Word.group w = 0x0#4 ∧ w ≠ 0x00E0#16 ∧ w ≠ 0x00EE#16) ∨
    (Word.group w = 0x5#4 ∧ Word.fieldN w ≠ 0x0#4) ∨
    (Word.group w = 0x8#4 ∧ Word.fieldN w ∈ [0x8#4, 0x9#4, 0xA#4, 0xB#4, 0xC#4, 0xD#4, 0xF#4]) ∨
    (Word.group w = 0x9#4 ∧ Word.fieldN w ≠ 0x0#4) ∨
    (Word.group w = 0xE#4 ∧ Word.fieldNn w ∉ [0x9E#8, 0xA1#8]) ∨
    (Word.group w = 0xF#4 ∧ Word.fieldNn w ∉
      [0x07#8, 0x0A#8, 0x15#8, 0x18#8, 0x1E#8, 0x29#8, 0x33#8, 0x55#8, 0x65#8])

/-- Words written out from the patterns of R104, each family among them (R111's examples first), decode to their
instructions; and two words of R108 do not. -/
def Obligations.WordsOfTheSpecDecode : Prop :=
  decode 0x632A#16 = .instr (.ldVxNn 0x3 0x2A) ∧ decode 0x8344#16 = .instr (.addVxVy 0x3 0x4) ∧
  decode 0xD015#16 = .instr (.drw 0x0 0x1 0x5) ∧ decode 0xF255#16 = .instr (.ldMemVx 0x2) ∧
  decode 0xB300#16 = .instr (.jpV0 0x300) ∧ decode 0x00EE#16 = .instr .ret ∧ decode 0x00E0#16 = .instr .cls ∧
  decode 0xE19E#16 = .instr (.skp 0x1) ∧ decode 0xF10A#16 = .instr (.ldVxK 0x1) ∧
  decode 0xFC15#16 = .instr (.ldDtVx 0xC) ∧ decode 0x0000#16 = .decodeError 0x0000#16 ∧
  decode 0x5121#16 = .decodeError 0x5121#16

/-! ### The step (40_fetch_decode.md) -/

/-- A step runs the decoded instruction: when the two bytes at `pc` decode to `i`, the step is `exec i` on the state with
`pc` moved past the word, and with `LATCH_CLEAR_ON_STEP` a step that ends without a fatal error clears the latch
(R140, R143, 45_input.md R343). -/
def Obligations.StepRunsTheDecodedInstruction : Prop :=
  ∀ (s : State) (i : Instr), s.fault = none → s.pc.toNat + 1 < 4096 →
    decode (s.memRead s.pc.toNat ++ s.memRead (s.pc.toNat + 1)) = .instr i →
    ∃ t, exec i { s with pc := s.pc + 2#16 } = .next t ∧
      step s = .next (if s.params.latchClearOnStep = true ∧ t.fault = none then { t with latchValid := false } else t)

/-- R141 (and R74): fetch reads the big-endian word at `pc` and advances `pc` by 2, which cannot overflow, before decode;
it requires `pc + 1 < MEM_SIZE`, and otherwise the step raises `Fatal(FetchBounds)` with `pc` unchanged. -/
def Obligations.FetchReadsBigEndianAndAdvances : Prop :=
  ∀ s : State, s.fault = none →
    (4096 ≤ s.pc.toNat + 1 → ∃ t, step s = .next t ∧ t.pc = s.pc ∧
      t.fault = some ⟨.fetchBounds, s.pc, none⟩ ∧ t.status = .fatal ⟨.fetchBounds, s.pc, none⟩) ∧
    (s.pc.toNat + 1 < 4096 →
      s.fetchWord = some (s.memRead s.pc.toNat ++ s.memRead (s.pc.toNat + 1)) ∧
      (s.pc + 2#16).toNat = s.pc.toNat + 2 ∧
      (∀ i t, decode (s.memRead s.pc.toNat ++ s.memRead (s.pc.toNat + 1)) = .instr i →
        exec i { s with pc := s.pc + 2#16 } = .next t → ∃ u, step s = .next u ∧ u.pc = t.pc) ∧
      (∀ w, decode (s.memRead s.pc.toNat ++ s.memRead (s.pc.toNat + 1)) = .decodeError w →
        ∃ u, step s = .next u ∧ u.pc = s.pc + 2#16))

/-- R147: a decode error changes nothing but the fetch's advance of `pc` and returns `DECODE_ERROR(w)`; the latch is
cleared only with `LATCH_CLEAR_ON_STEP`; the block stays runnable. -/
def Obligations.DecodeErrorOnlyAdvancesPc : Prop :=
  ∀ (s : State) (w : Word), s.WillFetch w → decode w = .decodeError w →
    ∃ t, step s = .next t ∧ t.pc.toNat = s.pc.toNat + 2 ∧ t.status = .decodeError w ∧ t.fault = none ∧
      SameRegsExcept [] s t ∧ t.ireg = s.ireg ∧ SameMemory s t ∧ SameStack s t ∧ SameTimers s t ∧ SameDisplay s t ∧
      (∀ k, t.keyDown k = s.keyDown k) ∧ t.latchKey = s.latchKey ∧
      t.latchValid = (s.latchValid && !s.params.latchClearOnStep) ∧ SameSupply s t

/-- A faulted block stays as it is: any number of steps only repeat the record as their status, and no transaction but
`INIT` clears it. Derived: that a fatal error is permanent is the spec's own choice (60_exceptions.md R387, D7, D26, log 17). -/
def Obligations.FaultedBlockIsFrozenUntilInit : Prop :=
  ∀ (s : State) (r : FaultRecord), s.fault = some r →
    (∀ n, Host.Core.run Sys2Proof.core (n + 1) s = .next { s with status := .fatal r }) ∧
    ∀ tr : Transaction, (∀ off, tr ≠ .init off) → (transact tr s).2.fault = some r

/-- A fatal error is precise, whichever instruction meets it: the state after the step is the state before it but for
`FAULT` and the status, and the record holds the address and the fetched word of the step and a kind its instruction can
raise. Derived: the restore is the spec's own choice (00_scope.md R12, D7, log 17). -/
def Obligations.FatalStepIsPrecise : Prop :=
  ∀ (s t : State) (r : FaultRecord), s.fault = none → step s = .next t → t.fault = some r →
    t = { s with fault := some r, status := .fatal r } ∧ r.ia = s.pc ∧ r.word = s.fetchWord ∧ r.Legal

/-- `STEP` is total: every state has a next state; and only CXNN reads `rnd`: any other step does the same whatever the
byte. Derived: that the byte is an input of the step is the spec's own choice (R151, D15, log 2). -/
def Obligations.StepIsTotalAndOnlyRndReadsTheRandomByte : Prop :=
  ∀ s : State, ∃ t, step s = .next t ∧
    ((∀ x nn, ¬ s.WillRun (.rnd x nn)) → ∀ b, step { s with rnd := b } = .next { t with rnd := b })

/-! ### Who writes what, over every step -/

/-- A step changes a general register only by an instruction that names it as written in 10_state.md R32's table. -/
def Obligations.OnlyTableWritersChangeRegisters : Prop :=
  ∀ (s t : State) (r : Reg), step s = .next t → t.getV r ≠ s.getV r → ∃ i, s.WillRun i ∧ r ∈ writtenRegs i

/-- A step changes `I` only by ANNN, FX1E or FX29 (10_state.md R34). -/
def Obligations.OnlyThreeInstructionsChangeTheIndexRegister : Prop :=
  ∀ s t : State, step s = .next t → t.ireg ≠ s.ireg →
    (∃ nnn, s.WillRun (.ldINnn nnn)) ∨ (∃ x, s.WillRun (.addIVx x)) ∨ ∃ x, s.WillRun (.ldFVx x)

/-- A step that runs an instruction outside R145's list, and meets no fatal error, leaves `pc` at the next word. -/
def Obligations.OnlyListedInstructionsRedirectThePc : Prop :=
  ∀ (s t : State) (i : Instr), s.WillRun i → writesPc i = false → step s = .next t → t.fault = none →
    t.pc.toNat = s.pc.toNat + 2

/-- A step never counts a timer: `DT` changes only by FX15 and `ST` only by FX18, to the register's value (R146). -/
def Obligations.StepsNeverCountTimers : Prop :=
  ∀ s t : State, step s = .next t →
    (t.dt ≠ s.dt → ∃ x, s.WillRun (.ldDtVx x) ∧ t.dt = s.getV x) ∧
    (t.st ≠ s.st → ∃ x, s.WillRun (.ldStVx x) ∧ t.st = s.getV x)

/-- Only 2NNN and 00EE move `SP`, by one, and only 2NNN changes a slot: the one at `SP`, to the return address
(10_state.md R37, R38). -/
def Obligations.OnlyCallAndReturnTouchTheStack : Prop :=
  ∀ s t : State, step s = .next t →
    (t.sp ≠ s.sp → ((∃ nnn, s.WillRun (.call nnn)) ∧ t.sp = s.sp + 1) ∨ (s.WillRun .ret ∧ t.sp + 1 = s.sp)) ∧
    ∀ j, t.slot j ≠ s.slot j → (∃ nnn, s.WillRun (.call nnn)) ∧ j = s.sp ∧ t.slot j = s.pc + 2#16

/-- Only 00E0 and DXYN change a pixel (10_state.md R40). -/
def Obligations.OnlyClearAndDrawChangePixels : Prop :=
  ∀ (s t : State) (x y : Nat), step s = .next t → t.pixel x y ≠ s.pixel x y →
    s.WillRun .cls ∨ ∃ x y n, s.WillRun (.drw x y n)

/-- A step changes a byte only by FX33 or FX55, among the bytes it stores from `I` on, inside the address space and
outside the font region (20_memory.md R70, R72, R76, R80). -/
def Obligations.OnlyStoresChangeMemory : Prop :=
  ∀ (s t : State) (a : Nat), step s = .next t → t.memRead a ≠ s.memRead a →
    ∃ i, s.WillRun i ∧ s.ireg.toNat ≤ a ∧ a < s.ireg.toNat + storedBytes i ∧ a < 4096 ∧ inFont s.params a = false

/-- No step changes a key or the latched key's number, and with `LATCH_CLEAR_ON_STEP = false` a step clears the latch
only by FX0A; no step ever sets it. Derived: the default is the spec's own choice (45_input.md R342, D13, log 23). -/
def Obligations.OnlyTheKeyReadConsumesTheLatch : Prop :=
  ∀ s t : State, step s = .next t →
    (∀ k, t.keyDown k = s.keyDown k) ∧ t.latchKey = s.latchKey ∧ (t.latchValid = true → s.latchValid = true) ∧
    (s.params.latchClearOnStep = false → s.latchValid = true → t.latchValid = false → ∃ x, s.WillRun (.ldVxK x))

/-! ### The invariant -/

/-- The invariant holds after reset. -/
def Obligations.ResetMeetsTheInvariant : Prop := State.reset.Inv

/-- Every step keeps the invariant (Safety.lean): canonical memory, intact font, `SP` and `pc` in their bounds, a fault
record that tells of the frozen state. -/
def Obligations.EveryStepKeepsTheInvariant : Prop := ∀ s t : State, s.Inv → step s = .next t → t.Inv

/-- Every host transaction keeps the invariant, `INIT` when its load offset meets 00_scope.md R8. -/
def Obligations.EveryTransactionKeepsTheInvariant : Prop :=
  ∀ (tr : Transaction) (s : State), s.Inv → (∀ off : Word, tr = .init off → off.toNat + 1 < 4096) → (transact tr s).2.Inv

/-- Whatever the host does and the program runs, the font region reads as the glyph table: "an immutable built-in glyph
table". Derived: that writes fault and loads are refused are the spec's own choices (20_memory.md R72, D9, D20, log 19). -/
def Obligations.FontSurvivesEverySchedule : Prop :=
  ∀ (trs : List Transaction) (s : State), s.Inv → (∀ off : Word, .init off ∈ trs → off.toNat + 1 < 4096) →
    ∀ k, k < 80 → (transactAll trs s).2.memRead (s.params.fontOffset + k) = s.params.fontGlyphs.getD k 0#8

/-! ### Control flow (41_control_flow.md) -/

/-- R174, JP nnn: the encoding, `pc <- nnn`, nothing else; no exception in this step, and a target of 0xFFF faults at the
next fetch; a jump to itself is `OK` and runs again. -/
def Obligations.JumpSetsThePc : Prop :=
  ∀ (nnn : Addr12) (s : State), decode (0x1000#16 ||| nnn.setWidth 16) = .instr (.jp nnn) ∧
    ∃ t, exec (.jp nnn) s = .next t ∧ t.pc = nnn.setWidth 16 ∧ OnlyPc s t ∧
      (nnn = 0xFFF#12 → s.fault = none → ∃ u, step t = .next u ∧ u.fault = some ⟨.fetchBounds, 0x0FFF#16, none⟩) ∧
      (s.WillRun (.jp nnn) → s.pc = nnn.setWidth 16 →
        ∃ u, step s = .next u ∧ u.pc = s.pc ∧ u.status = .ok ∧ u.WillRun (.jp nnn))

/-- CALL nnn (R170, R175): below the capacity it pushes `ia + 2` and jumps; at the capacity it raises `StackOverflow` and
nothing is pushed. Derived: which `SP` faults is the spec's own choice (D12, log 22), and so is the restore (D7). -/
def Obligations.CallPushesTheReturnAddress : Prop :=
  ∀ (nnn : Addr12) (s : State), s.stack.length = s.params.stackCapacity →
    (s.sp < s.params.stackCapacity → ∃ t, exec (.call nnn) s = .next t ∧ t.pc = nnn.setWidth 16 ∧ t.sp = s.sp + 1 ∧
      t.slot s.sp = s.pc ∧ (∀ j, j ≠ s.sp → t.slot j = s.slot j) ∧ SameRegsExcept [] s t ∧ t.ireg = s.ireg ∧
      SameMemory s t ∧ SameTimers s t ∧ SameDisplay s t ∧ SameInput s t ∧ t.fault = s.fault ∧ SameSupply s t ∧
      t.status = .ok) ∧
    (s.sp = s.params.stackCapacity → ∃ t, exec (.call nnn) s = .next t ∧ RaisedIn s t .stackOverflow (.call nnn))

/-- RET (R171, R173): with `SP > 0` it pops the return address into `pc`, keeping the slot; with `SP = 0` it raises
`StackUnderflow`. Derived: the restore is the spec's own choice (00_scope.md R12, D7, log 17). -/
def Obligations.ReturnPopsThePc : Prop :=
  ∀ s : State,
    (0 < s.sp → ∃ t, exec .ret s = .next t ∧ t.sp + 1 = s.sp ∧ t.pc = s.slot (s.sp - 1) ∧
      (∀ j, t.slot j = s.slot j) ∧ SameRegsExcept [] s t ∧ t.ireg = s.ireg ∧
      SameMemory s t ∧ SameTimers s t ∧ SameDisplay s t ∧ SameInput s t ∧ t.fault = s.fault ∧ SameSupply s t ∧
      t.status = .ok) ∧
    (s.sp = 0 → ∃ t, exec .ret s = .next t ∧ RaisedIn s t .stackUnderflow .ret)

/-- "Stack round-trip": a call and then the return of a routine that leaves `SP` and the slots alone come back to the word
after the call, with `SP` as it was (R171). -/
def Obligations.ReturnComesBackAfterTheCall : Prop :=
  ∀ (nnn : Addr12) (s : State), s.stack.length = s.params.stackCapacity → s.sp < s.params.stackCapacity →
    ∃ t, exec (.call nnn) s = .next t ∧
      ∀ u : State, u.sp = t.sp → u.stack = t.stack →
        ∃ v, exec .ret u = .next v ∧ v.pc = s.pc ∧ v.sp = s.sp ∧ v.fault = u.fault

/-- R176 and R177, SE and SNE with an immediate: the encodings; skip the next word when the register equals, or differs
from, nn; nothing else; no exception; a skip over the last word of memory faults at the next fetch. -/
def Obligations.ImmediateSkips : Prop :=
  ∀ (x : Reg) (nn : Byte) (s : State),
    decode (0x3000#16 ||| (x.setWidth 16 <<< 8) ||| nn.setWidth 16) = .instr (.seVxNn x nn) ∧
    decode (0x4000#16 ||| (x.setWidth 16 <<< 8) ||| nn.setWidth 16) = .instr (.sneVxNn x nn) ∧
    (∃ t, exec (.seVxNn x nn) s = .next t ∧ t.pc = (if s.getV x = nn then s.pc + 2#16 else s.pc) ∧ OnlyPc s t ∧
      (s.pc = 0x0FFE#16 → s.fault = none → s.getV x = nn →
        ∃ u, step t = .next u ∧ u.fault = some ⟨.fetchBounds, 0x1000#16, none⟩)) ∧
    (∃ t, exec (.sneVxNn x nn) s = .next t ∧ t.pc = (if s.getV x = nn then s.pc else s.pc + 2#16) ∧ OnlyPc s t ∧
      (s.pc = 0x0FFE#16 → s.fault = none → s.getV x ≠ nn →
        ∃ u, step t = .next u ∧ u.fault = some ⟨.fetchBounds, 0x1000#16, none⟩))

/-- SE Vx, Vy and SNE Vx, Vy (R178, R179): the encodings, only with a low nibble of 0; skip when the registers are equal,
or differ. Derived: strict decoding is the spec's own reading (D6, log 16). -/
def Obligations.RegisterSkips : Prop :=
  ∀ (x y : Reg) (s : State),
    decode (0x5000#16 ||| (x.setWidth 16 <<< 8) ||| (y.setWidth 16 <<< 4)) = .instr (.seVxVy x y) ∧
    decode (0x9000#16 ||| (x.setWidth 16 <<< 8) ||| (y.setWidth 16 <<< 4)) = .instr (.sneVxVy x y) ∧
    (∃ t, exec (.seVxVy x y) s = .next t ∧ t.pc = (if s.getV x = s.getV y then s.pc + 2#16 else s.pc) ∧ OnlyPc s t) ∧
    (∃ t, exec (.sneVxVy x y) s = .next t ∧ t.pc = (if s.getV x = s.getV y then s.pc else s.pc + 2#16) ∧ OnlyPc s t)

/-- JP V0, nnn (R180): `pc` becomes the exact sum of V0 and nnn, at most 0x10FE, and nothing else changes. Derived: that
the sum is not reduced modulo 4096 is the spec's own choice (D24, log 25). -/
def Obligations.ComputedJumpAddsV0 : Prop :=
  ∀ (nnn : Addr12) (s : State), ∃ t, exec (.jpV0 nnn) s = .next t ∧
    t.pc.toNat = (s.getV 0x0#4).toNat + nnn.toNat ∧ t.pc.toNat ≤ 0x10FE ∧ OnlyPc s t

/-! ### The ALU (42_alu.md) -/

/-- R210 and R211, LD Vx, nn and ADD Vx, nn: the encodings; the immediate, or the sum modulo 256; VF is not written as a
flag; nothing else; no exception. -/
def Obligations.ImmediateLoadAndAdd : Prop :=
  ∀ (x : Reg) (nn : Byte) (s : State),
    decode (0x6000#16 ||| (x.setWidth 16 <<< 8) ||| nn.setWidth 16) = .instr (.ldVxNn x nn) ∧
    decode (0x7000#16 ||| (x.setWidth 16 <<< 8) ||| nn.setWidth 16) = .instr (.addVxNn x nn) ∧
    (∃ t, exec (.ldVxNn x nn) s = .next t ∧ t.getV x = nn ∧ OnlyRegs [x] s t) ∧
    (∃ t, exec (.addVxNn x nn) s = .next t ∧ (t.getV x).toNat = ((s.getV x).toNat + nn.toNat) % 256 ∧ OnlyRegs [x] s t)

/-- LD, OR, AND and XOR of two registers (R212 to R215): the result, and VF untouched unless it is the destination. Derived:
that VF is untouched is the spec's own choice (D5, log 15). -/
def Obligations.AssignAndLogic : Prop :=
  ∀ (x y : Reg) (s : State),
    (∃ t, exec (.ldVxVy x y) s = .next t ∧ t.getV x = s.getV y ∧ OnlyRegs [x] s t) ∧
    (∃ t, exec (.or x y) s = .next t ∧ t.getV x = s.getV x ||| s.getV y ∧ OnlyRegs [x] s t) ∧
    (∃ t, exec (.and x y) s = .next t ∧ t.getV x = s.getV x &&& s.getV y ∧ OnlyRegs [x] s t) ∧
    (∃ t, exec (.xor x y) s = .next t ∧ t.getV x = s.getV x ^^^ s.getV y ∧ OnlyRegs [x] s t)

/-- ADD Vx, Vy, SUB and SUBN (R216, R217, R219): the result modulo 256 in Vx unless x = F, and VF = carry, or no borrow,
always, from the old registers. Derived: which nibble selects which operation is from general knowledge (D3, log 13). -/
def Obligations.AddAndSubtractWithFlag : Prop :=
  ∀ (x y : Reg) (s : State),
    (∃ t, exec (.addVxVy x y) s = .next t ∧
      (x ≠ VF → (t.getV x).toNat = ((s.getV x).toNat + (s.getV y).toNat) % 256) ∧
      t.getV VF = (if 255 < (s.getV x).toNat + (s.getV y).toNat then 1#8 else 0#8) ∧ OnlyRegs [x, VF] s t) ∧
    (∃ t, exec (.sub x y) s = .next t ∧
      (x ≠ VF → ((t.getV x).toNat : Int) = ((s.getV x).toNat - (s.getV y).toNat : Int) % 256) ∧
      t.getV VF = (if (s.getV y).toNat ≤ (s.getV x).toNat then 1#8 else 0#8) ∧ OnlyRegs [x, VF] s t) ∧
    (∃ t, exec (.subn x y) s = .next t ∧
      (x ≠ VF → ((t.getV x).toNat : Int) = ((s.getV y).toNat - (s.getV x).toNat : Int) % 256) ∧
      t.getV VF = (if (s.getV x).toNat ≤ (s.getV y).toNat then 1#8 else 0#8) ∧ OnlyRegs [x, VF] s t)

/-- SHR and SHL (R218, R220): Vx shifted by one, y ignored, and VF = the bit shifted out, as 0 or 1, also when x = F.
Derived: that Vx is shifted is the spec's own choice (D4, log 14). -/
def Obligations.ShiftsByOne : Prop :=
  ∀ (x y : Reg) (s : State),
    (∃ t, exec (.shr x y) s = .next t ∧ (x ≠ VF → (t.getV x).toNat = (s.getV x).toNat / 2) ∧
      (t.getV VF).toNat = (s.getV x).toNat % 2 ∧ OnlyRegs [x, VF] s t) ∧
    (∃ t, exec (.shl x y) s = .next t ∧ (x ≠ VF → (t.getV x).toNat = 2 * (s.getV x).toNat % 256) ∧
      (t.getV VF).toNat = (s.getV x).toNat / 128 ∧ OnlyRegs [x, VF] s t)

/-- RND Vx, nn (R222): Vx = the random byte masked by nn, whatever the byte, also as the `rnd` argument of a whole `STEP`;
one byte of the supply is used. Derived: that the byte is a free input of the step is the spec's own choice (D15, log 2). -/
def Obligations.RandomByteIsMasked : Prop :=
  ∀ (x : Reg) (nn : Byte) (s : State),
    (∃ t, exec (.rnd x nn) s = .next t ∧ t.getV x = s.rnd &&& nn ∧ SameRegsExcept [x] s t ∧ t.ireg = s.ireg ∧
      t.pc = s.pc ∧ SameMemory s t ∧ SameStack s t ∧ SameTimers s t ∧ SameDisplay s t ∧ SameInput s t ∧
      t.fault = s.fault ∧ t.params = s.params ∧ t.rndDraws = s.rndDraws + 1 ∧ t.status = .ok) ∧
    ∀ b : Byte, s.WillRun (.rnd x nn) → (s.stepWith b).1 = .status .ok ∧ (s.stepWith b).2.getV x = b &&& nn

/-! ### Index register and memory (43_index_memory.md) -/

/-- R260, LD I, nnn: the encoding, `I <- nnn`, nothing else; no exception. -/
def Obligations.IndexLoad : Prop :=
  ∀ (nnn : Addr12) (s : State), decode (0xA000#16 ||| nnn.setWidth 16) = .instr (.ldINnn nnn) ∧
    ∃ t, exec (.ldINnn nnn) s = .next t ∧ t.ireg = nnn.setWidth 16 ∧ OnlyIndex s t

/-- ADD I, Vx and LD F, Vx (R261, R262): `I + V[x]` modulo 65536 without a flag; the address of the glyph of the low nibble
of V[x]. Derived: the wrap and the mask are the spec's own choices (D10, D11, log 20, 21). -/
def Obligations.IndexAddAndGlyphAddress : Prop :=
  ∀ (x : Reg) (s : State),
    (∃ t, exec (.addIVx x) s = .next t ∧ t.ireg.toNat = (s.ireg.toNat + (s.getV x).toNat) % 65536 ∧ OnlyIndex s t) ∧
    (∃ t, exec (.ldFVx x) s = .next t ∧ OnlyIndex s t ∧
      (s.params.wf = true → t.ireg.toNat = s.params.fontOffset + 5 * ((s.getV x).toNat % 16)))

/-- LD B, Vx (R264): with its three bytes inside memory and outside the font, they become the hundreds, tens and ones
digits, which make up the value, and nothing else changes. Derived: the conditions are the spec's own choices (D8, D9, D25). -/
def Obligations.DecimalDigitsAreStored : Prop :=
  ∀ (x : Reg) (s : State), Memory.wf s.params s.mem = true →
    (∀ k, k < 3 → s.ireg.toNat + k < 4096 ∧ inFont s.params (s.ireg.toNat + k) = false) →
    ∃ t, exec (.ldBVx x) s = .next t ∧
      (t.memRead s.ireg.toNat).toNat = (s.getV x).toNat / 100 ∧
      (t.memRead (s.ireg.toNat + 1)).toNat = (s.getV x).toNat / 10 % 10 ∧
      (t.memRead (s.ireg.toNat + 2)).toNat = (s.getV x).toNat % 10 ∧
      100 * (t.memRead s.ireg.toNat).toNat + 10 * (t.memRead (s.ireg.toNat + 1)).toNat
        + (t.memRead (s.ireg.toNat + 2)).toNat = (s.getV x).toNat ∧
      OnlyBytes s.ireg.toNat 3 s t

/-- LD [I], Vx (R265): with its x + 1 bytes inside memory and outside the font, V0..Vx are copied to `I .. I + x`, and
nothing else changes. Derived: the conditions are the spec's own choices (D8, D9, D25). -/
def Obligations.RegistersAreStored : Prop :=
  ∀ (x : Reg) (s : State), Memory.wf s.params s.mem = true →
    (∀ k, k ≤ x.toNat → s.ireg.toNat + k < 4096 ∧ inFont s.params (s.ireg.toNat + k) = false) →
    ∃ t, exec (.ldMemVx x) s = .next t ∧
      (∀ r : Reg, r.toNat ≤ x.toNat → t.memRead (s.ireg.toNat + r.toNat) = s.getV r) ∧
      OnlyBytes s.ireg.toNat (x.toNat + 1) s t

/-- LD Vx, [I] (R266): with its x + 1 bytes inside memory, V0..Vx are loaded from `I .. I + x`, and nothing else changes;
reading the font is legal. Derived: the condition is the spec's own choice (D8, D25, log 18). -/
def Obligations.RegistersAreLoaded : Prop :=
  ∀ (x : Reg) (s : State), s.ireg.toNat + x.toNat < 4096 →
    ∃ t, exec (.ldVxMem x) s = .next t ∧
      (∀ r : Reg, r.toNat ≤ x.toNat → t.getV r = s.memRead (s.ireg.toNat + r.toNat)) ∧
      (∀ r : Reg, x.toNat < r.toNat → t.getV r = s.getV r) ∧
      t.ireg = s.ireg ∧ t.pc = s.pc ∧ SameMemory s t ∧ SameRest s t ∧ t.status = .ok

/-- FX65 is the "inverse of FX55": after FX55 has stored V0..Vx, FX65 run on any state with the memory, parameters and `I`
that FX55 left brings the stored registers back. Derived, as the two before. -/
def Obligations.LoadRestoresWhatStoreSaved : Prop :=
  ∀ (x : Reg) (s : State), Memory.wf s.params s.mem = true →
    (∀ k, k ≤ x.toNat → s.ireg.toNat + k < 4096 ∧ inFont s.params (s.ireg.toNat + k) = false) →
    ∃ t, exec (.ldMemVx x) s = .next t ∧
      ∀ u : State, u.mem = t.mem → u.params = t.params → u.ireg = t.ireg →
        ∃ v, exec (.ldVxMem x) u = .next v ∧ ∀ r : Reg, r.toNat ≤ x.toNat → v.getV r = s.getV r

/-- FX33, FX55, FX65 and DXYN raise what the first failing address `I + k` calls for, and change nothing (R264 to R266,
44_display.md R302): `MemBounds` from 4096 on, and for the two stores `FontWrite` inside the font. Derived: the kinds and
the order of the checks are the spec's own choices (D8, D9, D25, D28, log 18, 19, 26). -/
def Obligations.FirstFailingAddressIsRaised : Prop :=
  ∀ (s : State) (x y : Reg) (n : Nibble) (k : Nat),
    (∀ kind, ((4096 ≤ s.ireg.toNat + k ∧ kind = .memBounds) ∨
        (s.ireg.toNat + k < 4096 ∧ inFont s.params (s.ireg.toNat + k) = true ∧ kind = .fontWrite)) →
      (∀ j, j < k → s.ireg.toNat + j < 4096 ∧ inFont s.params (s.ireg.toNat + j) = false) →
      (k < 3 → ∃ t, exec (.ldBVx x) s = .next t ∧ RaisedIn s t kind (.ldBVx x)) ∧
      (k ≤ x.toNat → ∃ t, exec (.ldMemVx x) s = .next t ∧ RaisedIn s t kind (.ldMemVx x))) ∧
    (4096 ≤ s.ireg.toNat + k →
      (k ≤ x.toNat → ∃ t, exec (.ldVxMem x) s = .next t ∧ RaisedIn s t .memBounds (.ldVxMem x)) ∧
      (k < n.toNat → ∃ t, exec (.drw x y n) s = .next t ∧ RaisedIn s t .memBounds (.drw x y n)))

/-! ### Display (44_display.md) -/

/-- R300, CLS: the encoding; every pixel off; VF and everything else unchanged; no exception. -/
def Obligations.ClearTurnsEveryPixelOff : Prop :=
  decode 0x00E0#16 = .instr .cls ∧
  ∀ s : State, ∃ t, exec .cls s = .next t ∧ (∀ x y, t.pixel x y = false) ∧ SameRegsExcept [] s t ∧ t.ireg = s.ireg ∧
    t.pc = s.pc ∧ SameMemory s t ∧ SameStack s t ∧ SameTimers s t ∧ SameInput s t ∧ t.fault = s.fault ∧
    SameSupply s t ∧ t.status = .ok

/-- R301, Blit: the pixel loop XORs each set bit of the sprite into its pixel, once, bit 7 leftmost; bits beyond the right
and bottom edges are dropped; the collision flag tells whether a set bit met an on pixel. -/
def Obligations.BlitXorsTheSpriteAndClips : Prop :=
  ∀ (x0 y0 : Nat) (rows : List Byte) (fb : Framebuffer),
    (∀ px py, OnGrid px py →
      getPixel (blit x0 y0 rows fb).1 px py = (getPixel fb px py ^^ spriteBit x0 y0 rows px py)) ∧
    ((blit x0 y0 rows fb).2 = true ↔
      ∃ px py, OnGrid px py ∧ spriteBit x0 y0 rows px py = true ∧ getPixel fb px py = true)

/-- DRW Vx, Vy, n (R302): with its n bytes inside memory, the sprite read from `I` is XORed in at
(V[x] mod 64, V[y] mod 32), VF is 1 exactly on a collision and else 0, and nothing else changes; n = 0 draws nothing.
Derived: n = 0 and the reading of clipped rows are the spec's own choices (D16, log 24), and so is the bound (D8). -/
def Obligations.DrawXorsTheSprite : Prop :=
  ∀ (x y : Reg) (n : Nibble) (s : State), (∀ r, r < n.toNat → s.ireg.toNat + r < 4096) →
    ∃ t, exec (.drw x y n) s = .next t ∧
      (∀ px py, OnGrid px py → t.pixel px py = (s.pixel px py ^^
        spriteBit ((s.getV x).toNat % 64) ((s.getV y).toNat % 32)
          ((List.range n.toNat).map fun r => s.memRead (s.ireg.toNat + r)) px py)) ∧
      (t.getV VF = 0#8 ∨ t.getV VF = 1#8) ∧
      (t.getV VF = 1#8 ↔ ∃ px py, OnGrid px py ∧ s.pixel px py = true ∧
        spriteBit ((s.getV x).toNat % 64) ((s.getV y).toNat % 32)
          ((List.range n.toNat).map fun r => s.memRead (s.ireg.toNat + r)) px py = true) ∧
      (n = 0x0#4 → SameDisplay s t ∧ t.getV VF = 0#8) ∧
      SameRegsExcept [VF] s t ∧ t.ireg = s.ireg ∧ t.pc = s.pc ∧ SameMemory s t ∧ SameStack s t ∧ SameTimers s t ∧
      SameInput s t ∧ t.fault = s.fault ∧ SameSupply s t ∧ t.status = .ok

/-- The collision law (R303): after a draw VF is 1 exactly when some pixel that was on is off, and 0 otherwise. -/
def Obligations.CollisionMeansAPixelWentOff : Prop :=
  ∀ (x y : Reg) (n : Nibble) (s : State), (∀ r, r < n.toNat → s.ireg.toNat + r < 4096) →
    ∃ t, exec (.drw x y n) s = .next t ∧
      ((∃ px py, s.pixel px py = true ∧ t.pixel px py = false) → t.getV VF = 1#8) ∧
      ((¬ ∃ px py, s.pixel px py = true ∧ t.pixel px py = false) → t.getV VF = 0#8)

/-- The double-draw law (R304): a second draw of the same sprite at the same coordinates restores the framebuffer, and its
VF is 1 exactly when some set bit of the sprite fell on a pixel that was off before the first draw. The second draw may
use any registers that hold the coordinates. Derived: the rule's own flag sentence says "whenever the sprite has at least
one in-range set bit", which R301 to R303 contradict where the first draw only turned pixels off; the model's choice
there is to follow R301 to R303 (log 35). -/
def Obligations.SecondDrawRestoresTheFramebuffer : Prop :=
  ∀ (x y x' y' : Reg) (n : Nibble) (s : State), (∀ r, r < n.toNat → s.ireg.toNat + r < 4096) →
    ∃ t, exec (.drw x y n) s = .next t ∧
      (t.getV x' = s.getV x → t.getV y' = s.getV y →
        ∃ u, exec (.drw x' y' n) t = .next u ∧ u.fb = s.fb ∧
          (u.getV VF = 1#8 ↔ ∃ px py, OnGrid px py ∧ s.pixel px py = false ∧
            spriteBit ((s.getV x).toNat % 64) ((s.getV y).toNat % 32)
              ((List.range n.toNat).map fun r => s.memRead (s.ireg.toNat + r)) px py = true))

/-! ### Input (45_input.md) -/

/-- R330 and R331, SKP and SKNP: the encodings; skip when the key numbered by the low 4 bits of V[x] is down, or up; the
latch and everything else unchanged; no exception. -/
def Obligations.KeySkips : Prop :=
  ∀ (x : Reg) (s : State),
    decode (0xE09E#16 ||| (x.setWidth 16 <<< 8)) = .instr (.skp x) ∧
    decode (0xE0A1#16 ||| (x.setWidth 16 <<< 8)) = .instr (.sknp x) ∧
    (∃ t, exec (.skp x) s = .next t ∧ OnlyPc s t ∧
      t.pc = (if s.keyDown (BitVec.ofNat 4 ((s.getV x).toNat % 16)) = true then s.pc + 2#16 else s.pc)) ∧
    (∃ t, exec (.sknp x) s = .next t ∧ OnlyPc s t ∧
      t.pc = (if s.keyDown (BitVec.ofNat 4 ((s.getV x).toNat % 16)) = true then s.pc else s.pc + 2#16))

/-- LD Vx, K (R332): the encoding; a latched key goes to V[x] and the latch is cleared; without one `pc` goes back to the
instruction, the status is `AWAIT_KEY`, and nothing else changes; no exception. Derived: it leaves out the rule's remark on earlier
presses, which rests on the spec's own choice (D13, log 23). -/
def Obligations.KeyReadConsumesOrWaits : Prop :=
  ∀ (x : Reg) (s : State), decode (0xF00A#16 ||| (x.setWidth 16 <<< 8)) = .instr (.ldVxK x) ∧
    (s.latchValid = true → ∃ t, exec (.ldVxK x) s = .next t ∧ (t.getV x).toNat = s.latchKey.toNat ∧
      t.latchValid = false ∧ t.latchKey = s.latchKey ∧ (∀ k, t.keyDown k = s.keyDown k) ∧ SameRegsExcept [x] s t ∧
      t.ireg = s.ireg ∧ t.pc = s.pc ∧ SameMemory s t ∧ SameStack s t ∧ SameTimers s t ∧ SameDisplay s t ∧
      t.fault = s.fault ∧ SameSupply s t ∧ t.status = .ok) ∧
    (s.latchValid = false → ∃ t, exec (.ldVxK x) s = .next t ∧ t.pc = s.ia ∧ t.status = .awaitKey ∧
      SameRegsExcept [] s t ∧ t.ireg = s.ireg ∧ SameMemory s t ∧ SameRest s t)

/-- A program at an FX0A with no key latched steps forever without progress: after any number of steps only the status
differs (R333, "a model must keep that run"; R399). -/
def Obligations.WaitForAKeyGoesOnUnchanged : Prop :=
  ∀ (x : Reg) (s : State), s.WillRun (.ldVxK x) → s.latchValid = false →
    ∀ n, Host.Core.run Sys2Proof.core (n + 1) s = .next { s with status := .awaitKey }

/-- `KEY_DOWN` and `KEY_UP` (R340, R341): for a key 0..15 the matrix and, on a press, the latch; the rest unchanged; for
any other number `refused` and no change. Derived: the refusal is the spec's own choice (D30, log 27). -/
def Obligations.KeyEvents : Prop :=
  ∀ (k : Nat) (s : State),
    (k < 16 → (transact (.keyDown k) s).1 = .ok ∧ (transact (.keyUp k) s).1 = .ok ∧
      (transact (.keyDown k) s).2 =
        { s with key := (transact (.keyDown k) s).2.key, latchKey := BitVec.ofNat 4 k, latchValid := true } ∧
      (transact (.keyUp k) s).2 = { s with key := (transact (.keyUp k) s).2.key } ∧
      ∀ j : Nibble,
        (transact (.keyDown k) s).2.keyDown j = (if j.toNat = k then true else s.keyDown j) ∧
        (transact (.keyUp k) s).2.keyDown j = (if j.toNat = k then false else s.keyDown j)) ∧
    (16 ≤ k → transact (.keyDown k) s = (.refused, s) ∧ transact (.keyUp k) s = (.refused, s))

/-- "A press followed by its release before the next step therefore still satisfies a waiting FX0A" (R341): the next step
completes, with the key's number in V[x] and the latch empty. -/
def Obligations.PressAndReleaseSatisfiesTheKeyRead : Prop :=
  ∀ (x : Reg) (s : State) (k : Nat) (b : Byte), s.WillRun (.ldVxK x) → k < 16 →
    ∃ t, transactAll [.keyDown k, .keyUp k, .step b] s = ([.ok, .ok, .status .ok], t) ∧
      (t.getV x).toNat = k ∧ t.latchValid = false ∧ t.pc = s.pc + 2#16 ∧ SameRegsExcept [x] s t

/-! ### Timers (46_timers.md) -/

/-- R360 and R361 (and the effect of R362): the encodings; V[x] <- DT, DT <- V[x], ST <- V[x]; nothing else; no
exception. -/
def Obligations.TimerMoves : Prop :=
  ∀ (x : Reg) (s : State),
    decode (0xF007#16 ||| (x.setWidth 16 <<< 8)) = .instr (.ldVxDt x) ∧
    decode (0xF015#16 ||| (x.setWidth 16 <<< 8)) = .instr (.ldDtVx x) ∧
    decode (0xF018#16 ||| (x.setWidth 16 <<< 8)) = .instr (.ldStVx x) ∧
    (∃ t, exec (.ldVxDt x) s = .next t ∧ t.getV x = s.dt ∧ OnlyRegs [x] s t) ∧
    (∃ t, exec (.ldDtVx x) s = .next t ∧ t.dt = s.getV x ∧ t.st = s.st ∧ SameRegsExcept [] s t ∧ t.ireg = s.ireg ∧
      t.pc = s.pc ∧ SameMemory s t ∧ SameStack s t ∧ SameDisplay s t ∧ SameInput s t ∧ t.fault = s.fault ∧
      SameSupply s t ∧ t.status = .ok) ∧
    (∃ t, exec (.ldStVx x) s = .next t ∧ t.st = s.getV x ∧ t.dt = s.dt ∧ SameRegsExcept [] s t ∧ t.ireg = s.ireg ∧
      t.pc = s.pc ∧ SameMemory s t ∧ SameStack s t ∧ SameDisplay s t ∧ SameInput s t ∧ t.fault = s.fault ∧
      SameSupply s t ∧ t.status = .ok)

/-- R370, `TICK`: each timer independently goes down by one and holds at zero; no other state changes and nothing is
returned. -/
def Obligations.TickCountsEachTimerDown : Prop :=
  ∀ s : State, (transact .tick s).1 = .nothing ∧
    (transact .tick s).2.dt.toNat = s.dt.toNat - 1 ∧ (transact .tick s).2.st.toNat = s.st.toNat - 1 ∧
    (transact .tick s).2 = { s with dt := (transact .tick s).2.dt, st := (transact .tick s).2.st }

/-- Any number of ticks between two steps is allowed: after k of them `DT` is what is left of it, floored at zero
(R371, vector T7). -/
def Obligations.ManyTicksFloorAtZero : Prop :=
  ∀ (k : Nat) (s : State),
    (transactAll (List.replicate k .tick) s).2.dt.toNat = s.dt.toNat - k ∧
    (transactAll (List.replicate k .tick) s).2.st.toNat = s.st.toNat - k

/-! ### Reset, loading and queries (70_reset_and_hazards.md, 44_display.md, 46_timers.md) -/

/-- What `INIT` leaves (R420, 10_state.md R44), for any parameters and any state before it, and so what reset leaves.
Derived: the zeros of `SP`, `LATCH_KEY` and `FAULT` are the spec's own reading (D23, log 28). -/
def Obligations.InitResetsEveryPieceOfState : Prop :=
  ∀ (off : Word) (s : State), (transact (.init off) s).1 = .nothing ∧
    (∀ r, (transact (.init off) s).2.getV r = 0#8) ∧ (transact (.init off) s).2.ireg = 0#16 ∧
    (transact (.init off) s).2.pc = off ∧ (transact (.init off) s).2.sp = 0 ∧
    (∀ j, (transact (.init off) s).2.slot j = 0#16) ∧ (transact (.init off) s).2.dt = 0#8 ∧
    (transact (.init off) s).2.st = 0#8 ∧ (∀ x y, (transact (.init off) s).2.pixel x y = false) ∧
    (∀ k, (transact (.init off) s).2.keyDown k = false) ∧ (transact (.init off) s).2.latchValid = false ∧
    (transact (.init off) s).2.latchKey = 0#4 ∧ (transact (.init off) s).2.fault = none ∧
    (transact (.init off) s).2.params = s.params ∧
    ∀ a, (transact (.init off) s).2.memRead a =
      if inFont s.params a then s.params.fontGlyphs.getD (a - s.params.fontOffset) 0#8 else 0#8

/-- After reset: `pc` is 0x0200 and every byte outside the font region is 0 (R420, R422). Derived: 0x0200 is the default
the model takes (D22, log 1). -/
def Obligations.ResetStartsAt0200 : Prop :=
  State.reset.pc = 0x0200#16 ∧ State.reset.fault = none ∧ (∀ r, State.reset.getV r = 0#8) ∧
  ∀ a, inFont State.reset.params a = false → State.reset.memRead a = 0#8

/-- `LOAD(offset, bytes)` (R424): inside memory and clear of the font, the bytes are copied verbatim and no other state
changes; otherwise, or when the source cannot be read, `load_error` and nothing changes. Derived: the refusal over the
font is the spec's own choice (D20, log 19). Two things are the model's own choices (log 12): an empty string at an offset
beyond 4096 is a `load_error`, by R424's bound although R425 says `ok`, and a faulted block loads as any other. -/
def Obligations.LoadCopiesOrRefuses : Prop :=
  ∀ (offset : Nat) (bytes : List Byte) (s : State), Memory.wf s.params s.mem = true →
    transact (.load offset none) s = (.loadError, s) ∧
    (offset + bytes.length ≤ 4096 → (∀ k, k < bytes.length → inFont s.params (offset + k) = false) →
      ∃ t, transact (.load offset (some bytes)) s = (.ok, t) ∧
        (∀ k, k < bytes.length → t.memRead (offset + k) = bytes.getD k 0#8) ∧
        SameMemoryOutside offset bytes.length s t ∧ t = { s with mem := t.mem }) ∧
    ((4096 < offset + bytes.length ∨ ∃ k, k < bytes.length ∧ inFont s.params (offset + k) = true) →
      transact (.load offset (some bytes)) s = (.loadError, s))

/-- A word loaded at `pc` is what the next step fetches (R425, 20_memory.md R78, R87). -/
def Obligations.LoadedWordIsFetchedNext : Prop :=
  ∀ (s : State) (w : Word), Memory.wf s.params s.mem = true → s.fault = none → 0x200 ≤ s.pc.toNat →
    s.pc.toNat + 1 < 4096 →
    ∃ t, transact (.load s.pc.toNat (some [w.extractLsb' 8 8, w.extractLsb' 0 8])) s = (.ok, t) ∧ t.WillFetch w

/-- `PIXEL` and `SOUND` (44_display.md R310, 46_timers.md R373): the bit on the grid, `refused` off it; the ST byte; no
state changes. Derived: the refusal and `SOUND` are the spec's own choices (D18, D21, log 27, 30). -/
def Obligations.QueriesChangeNothing : Prop :=
  ∀ (x y : Nat) (s : State),
    (x < 64 → y < 32 → transact (.pixel x y) s = (.bit (s.pixel x y), s)) ∧
    ((64 ≤ x ∨ 32 ≤ y) → transact (.pixel x y) s = (.refused, s)) ∧
    transact .sound s = (.byte s.st, s)
end

