-- ==== Sys2Proof/Laws/State.lean ====
section
/-! SUPPORT. One lemma per field per update of the state, so that no later proof unfolds a record update. -/

namespace Sys2Proof.Machine

/-! ### setV -/

@[simp] theorem State.setV_ireg (s : State) (x : Reg) (b : Byte) : (s.setV x b).ireg = s.ireg := rfl
@[simp] theorem State.setV_pc (s : State) (x : Reg) (b : Byte) : (s.setV x b).pc = s.pc := rfl
@[simp] theorem State.setV_sp (s : State) (x : Reg) (b : Byte) : (s.setV x b).sp = s.sp := rfl
@[simp] theorem State.setV_stack (s : State) (x : Reg) (b : Byte) : (s.setV x b).stack = s.stack := rfl
@[simp] theorem State.setV_dt (s : State) (x : Reg) (b : Byte) : (s.setV x b).dt = s.dt := rfl
@[simp] theorem State.setV_st (s : State) (x : Reg) (b : Byte) : (s.setV x b).st = s.st := rfl
@[simp] theorem State.setV_fb (s : State) (x : Reg) (b : Byte) : (s.setV x b).fb = s.fb := rfl
@[simp] theorem State.setV_key (s : State) (x : Reg) (b : Byte) : (s.setV x b).key = s.key := rfl
@[simp] theorem State.setV_latchValid (s : State) (x : Reg) (b : Byte) : (s.setV x b).latchValid = s.latchValid := rfl
@[simp] theorem State.setV_latchKey (s : State) (x : Reg) (b : Byte) : (s.setV x b).latchKey = s.latchKey := rfl
@[simp] theorem State.setV_fault (s : State) (x : Reg) (b : Byte) : (s.setV x b).fault = s.fault := rfl
@[simp] theorem State.setV_mem (s : State) (x : Reg) (b : Byte) : (s.setV x b).mem = s.mem := rfl
@[simp] theorem State.setV_params (s : State) (x : Reg) (b : Byte) : (s.setV x b).params = s.params := rfl
@[simp] theorem State.setV_rnd (s : State) (x : Reg) (b : Byte) : (s.setV x b).rnd = s.rnd := rfl
@[simp] theorem State.setV_rndDraws (s : State) (x : Reg) (b : Byte) : (s.setV x b).rndDraws = s.rndDraws := rfl
@[simp] theorem State.setV_status (s : State) (x : Reg) (b : Byte) : (s.setV x b).status = s.status := rfl

/-! ### memWrite -/

@[simp] theorem State.memWrite_v (s : State) (a : Nat) (b : Byte) : (s.memWrite a b).v = s.v := rfl
@[simp] theorem State.memWrite_ireg (s : State) (a : Nat) (b : Byte) : (s.memWrite a b).ireg = s.ireg := rfl
@[simp] theorem State.memWrite_pc (s : State) (a : Nat) (b : Byte) : (s.memWrite a b).pc = s.pc := rfl
@[simp] theorem State.memWrite_sp (s : State) (a : Nat) (b : Byte) : (s.memWrite a b).sp = s.sp := rfl
@[simp] theorem State.memWrite_stack (s : State) (a : Nat) (b : Byte) : (s.memWrite a b).stack = s.stack := rfl
@[simp] theorem State.memWrite_dt (s : State) (a : Nat) (b : Byte) : (s.memWrite a b).dt = s.dt := rfl
@[simp] theorem State.memWrite_st (s : State) (a : Nat) (b : Byte) : (s.memWrite a b).st = s.st := rfl
@[simp] theorem State.memWrite_fb (s : State) (a : Nat) (b : Byte) : (s.memWrite a b).fb = s.fb := rfl
@[simp] theorem State.memWrite_key (s : State) (a : Nat) (b : Byte) : (s.memWrite a b).key = s.key := rfl
@[simp] theorem State.memWrite_latchValid (s : State) (a : Nat) (b : Byte) : (s.memWrite a b).latchValid = s.latchValid := rfl
@[simp] theorem State.memWrite_latchKey (s : State) (a : Nat) (b : Byte) : (s.memWrite a b).latchKey = s.latchKey := rfl
@[simp] theorem State.memWrite_fault (s : State) (a : Nat) (b : Byte) : (s.memWrite a b).fault = s.fault := rfl
@[simp] theorem State.memWrite_mem (s : State) (a : Nat) (b : Byte) : (s.memWrite a b).mem = Memory.write s.params s.mem a b := rfl
@[simp] theorem State.memWrite_params (s : State) (a : Nat) (b : Byte) : (s.memWrite a b).params = s.params := rfl
@[simp] theorem State.memWrite_rnd (s : State) (a : Nat) (b : Byte) : (s.memWrite a b).rnd = s.rnd := rfl
@[simp] theorem State.memWrite_rndDraws (s : State) (a : Nat) (b : Byte) : (s.memWrite a b).rndDraws = s.rndDraws := rfl
@[simp] theorem State.memWrite_status (s : State) (a : Nat) (b : Byte) : (s.memWrite a b).status = s.status := rfl

/-! ### setKey -/

@[simp] theorem State.setKey_v (s : State) (k : Nibble) (b : Bool) : (s.setKey k b).v = s.v := rfl
@[simp] theorem State.setKey_ireg (s : State) (k : Nibble) (b : Bool) : (s.setKey k b).ireg = s.ireg := rfl
@[simp] theorem State.setKey_pc (s : State) (k : Nibble) (b : Bool) : (s.setKey k b).pc = s.pc := rfl
@[simp] theorem State.setKey_sp (s : State) (k : Nibble) (b : Bool) : (s.setKey k b).sp = s.sp := rfl
@[simp] theorem State.setKey_stack (s : State) (k : Nibble) (b : Bool) : (s.setKey k b).stack = s.stack := rfl
@[simp] theorem State.setKey_dt (s : State) (k : Nibble) (b : Bool) : (s.setKey k b).dt = s.dt := rfl
@[simp] theorem State.setKey_st (s : State) (k : Nibble) (b : Bool) : (s.setKey k b).st = s.st := rfl
@[simp] theorem State.setKey_fb (s : State) (k : Nibble) (b : Bool) : (s.setKey k b).fb = s.fb := rfl
@[simp] theorem State.setKey_latchValid (s : State) (k : Nibble) (b : Bool) : (s.setKey k b).latchValid = s.latchValid := rfl
@[simp] theorem State.setKey_latchKey (s : State) (k : Nibble) (b : Bool) : (s.setKey k b).latchKey = s.latchKey := rfl
@[simp] theorem State.setKey_fault (s : State) (k : Nibble) (b : Bool) : (s.setKey k b).fault = s.fault := rfl
@[simp] theorem State.setKey_mem (s : State) (k : Nibble) (b : Bool) : (s.setKey k b).mem = s.mem := rfl
@[simp] theorem State.setKey_params (s : State) (k : Nibble) (b : Bool) : (s.setKey k b).params = s.params := rfl
@[simp] theorem State.setKey_rnd (s : State) (k : Nibble) (b : Bool) : (s.setKey k b).rnd = s.rnd := rfl
@[simp] theorem State.setKey_rndDraws (s : State) (k : Nibble) (b : Bool) : (s.setKey k b).rndDraws = s.rndDraws := rfl
@[simp] theorem State.setKey_status (s : State) (k : Nibble) (b : Bool) : (s.setKey k b).status = s.status := rfl

/-! ### complete -/

@[simp] theorem State.complete_v (s : State) : (s.complete).v = s.v := rfl
@[simp] theorem State.complete_ireg (s : State) : (s.complete).ireg = s.ireg := rfl
@[simp] theorem State.complete_pc (s : State) : (s.complete).pc = s.pc := rfl
@[simp] theorem State.complete_sp (s : State) : (s.complete).sp = s.sp := rfl
@[simp] theorem State.complete_stack (s : State) : (s.complete).stack = s.stack := rfl
@[simp] theorem State.complete_dt (s : State) : (s.complete).dt = s.dt := rfl
@[simp] theorem State.complete_st (s : State) : (s.complete).st = s.st := rfl
@[simp] theorem State.complete_fb (s : State) : (s.complete).fb = s.fb := rfl
@[simp] theorem State.complete_key (s : State) : (s.complete).key = s.key := rfl
@[simp] theorem State.complete_latchValid (s : State) : (s.complete).latchValid = s.latchValid := rfl
@[simp] theorem State.complete_latchKey (s : State) : (s.complete).latchKey = s.latchKey := rfl
@[simp] theorem State.complete_fault (s : State) : (s.complete).fault = s.fault := rfl
@[simp] theorem State.complete_mem (s : State) : (s.complete).mem = s.mem := rfl
@[simp] theorem State.complete_params (s : State) : (s.complete).params = s.params := rfl
@[simp] theorem State.complete_rnd (s : State) : (s.complete).rnd = s.rnd := rfl
@[simp] theorem State.complete_rndDraws (s : State) : (s.complete).rndDraws = s.rndDraws := rfl
@[simp] theorem State.complete_status (s : State) : (s.complete).status = .ok := rfl

/-! ### raise -/

@[simp] theorem State.raise_v (s : State) (k : FatalKind) (a : Word) (w : Option Word) : (s.raise k a w).v = s.v := rfl
@[simp] theorem State.raise_ireg (s : State) (k : FatalKind) (a : Word) (w : Option Word) : (s.raise k a w).ireg = s.ireg := rfl
@[simp] theorem State.raise_pc (s : State) (k : FatalKind) (a : Word) (w : Option Word) : (s.raise k a w).pc = a := rfl
@[simp] theorem State.raise_sp (s : State) (k : FatalKind) (a : Word) (w : Option Word) : (s.raise k a w).sp = s.sp := rfl
@[simp] theorem State.raise_stack (s : State) (k : FatalKind) (a : Word) (w : Option Word) : (s.raise k a w).stack = s.stack := rfl
@[simp] theorem State.raise_dt (s : State) (k : FatalKind) (a : Word) (w : Option Word) : (s.raise k a w).dt = s.dt := rfl
@[simp] theorem State.raise_st (s : State) (k : FatalKind) (a : Word) (w : Option Word) : (s.raise k a w).st = s.st := rfl
@[simp] theorem State.raise_fb (s : State) (k : FatalKind) (a : Word) (w : Option Word) : (s.raise k a w).fb = s.fb := rfl
@[simp] theorem State.raise_key (s : State) (k : FatalKind) (a : Word) (w : Option Word) : (s.raise k a w).key = s.key := rfl
@[simp] theorem State.raise_latchValid (s : State) (k : FatalKind) (a : Word) (w : Option Word) : (s.raise k a w).latchValid = s.latchValid := rfl
@[simp] theorem State.raise_latchKey (s : State) (k : FatalKind) (a : Word) (w : Option Word) : (s.raise k a w).latchKey = s.latchKey := rfl
@[simp] theorem State.raise_fault (s : State) (k : FatalKind) (a : Word) (w : Option Word) : (s.raise k a w).fault = some ⟨k, a, w⟩ := rfl
@[simp] theorem State.raise_mem (s : State) (k : FatalKind) (a : Word) (w : Option Word) : (s.raise k a w).mem = s.mem := rfl
@[simp] theorem State.raise_params (s : State) (k : FatalKind) (a : Word) (w : Option Word) : (s.raise k a w).params = s.params := rfl
@[simp] theorem State.raise_rnd (s : State) (k : FatalKind) (a : Word) (w : Option Word) : (s.raise k a w).rnd = s.rnd := rfl
@[simp] theorem State.raise_rndDraws (s : State) (k : FatalKind) (a : Word) (w : Option Word) : (s.raise k a w).rndDraws = s.rndDraws := rfl
@[simp] theorem State.raise_status (s : State) (k : FatalKind) (a : Word) (w : Option Word) : (s.raise k a w).status = .fatal ⟨k, a, w⟩ := rfl

/-! ### raiseIn -/

@[simp] theorem State.raiseIn_v (s : State) (k : FatalKind) (i : Instr) : (s.raiseIn k i).v = s.v := rfl
@[simp] theorem State.raiseIn_ireg (s : State) (k : FatalKind) (i : Instr) : (s.raiseIn k i).ireg = s.ireg := rfl
@[simp] theorem State.raiseIn_pc (s : State) (k : FatalKind) (i : Instr) : (s.raiseIn k i).pc = s.ia := rfl
@[simp] theorem State.raiseIn_sp (s : State) (k : FatalKind) (i : Instr) : (s.raiseIn k i).sp = s.sp := rfl
@[simp] theorem State.raiseIn_stack (s : State) (k : FatalKind) (i : Instr) : (s.raiseIn k i).stack = s.stack := rfl
@[simp] theorem State.raiseIn_dt (s : State) (k : FatalKind) (i : Instr) : (s.raiseIn k i).dt = s.dt := rfl
@[simp] theorem State.raiseIn_st (s : State) (k : FatalKind) (i : Instr) : (s.raiseIn k i).st = s.st := rfl
@[simp] theorem State.raiseIn_fb (s : State) (k : FatalKind) (i : Instr) : (s.raiseIn k i).fb = s.fb := rfl
@[simp] theorem State.raiseIn_key (s : State) (k : FatalKind) (i : Instr) : (s.raiseIn k i).key = s.key := rfl
@[simp] theorem State.raiseIn_latchValid (s : State) (k : FatalKind) (i : Instr) : (s.raiseIn k i).latchValid = s.latchValid := rfl
@[simp] theorem State.raiseIn_latchKey (s : State) (k : FatalKind) (i : Instr) : (s.raiseIn k i).latchKey = s.latchKey := rfl
@[simp] theorem State.raiseIn_fault (s : State) (k : FatalKind) (i : Instr) : (s.raiseIn k i).fault = some ⟨k, s.ia, some (encode i)⟩ := rfl
@[simp] theorem State.raiseIn_mem (s : State) (k : FatalKind) (i : Instr) : (s.raiseIn k i).mem = s.mem := rfl
@[simp] theorem State.raiseIn_params (s : State) (k : FatalKind) (i : Instr) : (s.raiseIn k i).params = s.params := rfl
@[simp] theorem State.raiseIn_rnd (s : State) (k : FatalKind) (i : Instr) : (s.raiseIn k i).rnd = s.rnd := rfl
@[simp] theorem State.raiseIn_rndDraws (s : State) (k : FatalKind) (i : Instr) : (s.raiseIn k i).rndDraws = s.rndDraws := rfl
@[simp] theorem State.raiseIn_status (s : State) (k : FatalKind) (i : Instr) : (s.raiseIn k i).status = .fatal ⟨k, s.ia, some (encode i)⟩ := rfl

/-! ### raiseFetch -/

@[simp] theorem State.raiseFetch_v (s : State) : (s.raiseFetch).v = s.v := rfl
@[simp] theorem State.raiseFetch_ireg (s : State) : (s.raiseFetch).ireg = s.ireg := rfl
@[simp] theorem State.raiseFetch_pc (s : State) : (s.raiseFetch).pc = s.pc := rfl
@[simp] theorem State.raiseFetch_sp (s : State) : (s.raiseFetch).sp = s.sp := rfl
@[simp] theorem State.raiseFetch_stack (s : State) : (s.raiseFetch).stack = s.stack := rfl
@[simp] theorem State.raiseFetch_dt (s : State) : (s.raiseFetch).dt = s.dt := rfl
@[simp] theorem State.raiseFetch_st (s : State) : (s.raiseFetch).st = s.st := rfl
@[simp] theorem State.raiseFetch_fb (s : State) : (s.raiseFetch).fb = s.fb := rfl
@[simp] theorem State.raiseFetch_key (s : State) : (s.raiseFetch).key = s.key := rfl
@[simp] theorem State.raiseFetch_latchValid (s : State) : (s.raiseFetch).latchValid = s.latchValid := rfl
@[simp] theorem State.raiseFetch_latchKey (s : State) : (s.raiseFetch).latchKey = s.latchKey := rfl
@[simp] theorem State.raiseFetch_fault (s : State) : (s.raiseFetch).fault = some ⟨.fetchBounds, s.pc, none⟩ := rfl
@[simp] theorem State.raiseFetch_mem (s : State) : (s.raiseFetch).mem = s.mem := rfl
@[simp] theorem State.raiseFetch_params (s : State) : (s.raiseFetch).params = s.params := rfl
@[simp] theorem State.raiseFetch_rnd (s : State) : (s.raiseFetch).rnd = s.rnd := rfl
@[simp] theorem State.raiseFetch_rndDraws (s : State) : (s.raiseFetch).rndDraws = s.rndDraws := rfl
@[simp] theorem State.raiseFetch_status (s : State) : (s.raiseFetch).status = .fatal ⟨.fetchBounds, s.pc, none⟩ := rfl

/-! ### advance -/

@[simp] theorem State.advance_v (s : State) : (s.advance).v = s.v := rfl
@[simp] theorem State.advance_ireg (s : State) : (s.advance).ireg = s.ireg := rfl
@[simp] theorem State.advance_pc (s : State) : (s.advance).pc = s.pc + 2#16 := rfl
@[simp] theorem State.advance_sp (s : State) : (s.advance).sp = s.sp := rfl
@[simp] theorem State.advance_stack (s : State) : (s.advance).stack = s.stack := rfl
@[simp] theorem State.advance_dt (s : State) : (s.advance).dt = s.dt := rfl
@[simp] theorem State.advance_st (s : State) : (s.advance).st = s.st := rfl
@[simp] theorem State.advance_fb (s : State) : (s.advance).fb = s.fb := rfl
@[simp] theorem State.advance_key (s : State) : (s.advance).key = s.key := rfl
@[simp] theorem State.advance_latchValid (s : State) : (s.advance).latchValid = s.latchValid := rfl
@[simp] theorem State.advance_latchKey (s : State) : (s.advance).latchKey = s.latchKey := rfl
@[simp] theorem State.advance_fault (s : State) : (s.advance).fault = s.fault := rfl
@[simp] theorem State.advance_mem (s : State) : (s.advance).mem = s.mem := rfl
@[simp] theorem State.advance_params (s : State) : (s.advance).params = s.params := rfl
@[simp] theorem State.advance_rnd (s : State) : (s.advance).rnd = s.rnd := rfl
@[simp] theorem State.advance_rndDraws (s : State) : (s.advance).rndDraws = s.rndDraws := rfl
@[simp] theorem State.advance_status (s : State) : (s.advance).status = s.status := rfl

/-! ### repeatFatal -/

@[simp] theorem State.repeatFatal_v (s : State) (r : FaultRecord) : (s.repeatFatal r).v = s.v := rfl
@[simp] theorem State.repeatFatal_ireg (s : State) (r : FaultRecord) : (s.repeatFatal r).ireg = s.ireg := rfl
@[simp] theorem State.repeatFatal_pc (s : State) (r : FaultRecord) : (s.repeatFatal r).pc = s.pc := rfl
@[simp] theorem State.repeatFatal_sp (s : State) (r : FaultRecord) : (s.repeatFatal r).sp = s.sp := rfl
@[simp] theorem State.repeatFatal_stack (s : State) (r : FaultRecord) : (s.repeatFatal r).stack = s.stack := rfl
@[simp] theorem State.repeatFatal_dt (s : State) (r : FaultRecord) : (s.repeatFatal r).dt = s.dt := rfl
@[simp] theorem State.repeatFatal_st (s : State) (r : FaultRecord) : (s.repeatFatal r).st = s.st := rfl
@[simp] theorem State.repeatFatal_fb (s : State) (r : FaultRecord) : (s.repeatFatal r).fb = s.fb := rfl
@[simp] theorem State.repeatFatal_key (s : State) (r : FaultRecord) : (s.repeatFatal r).key = s.key := rfl
@[simp] theorem State.repeatFatal_latchValid (s : State) (r : FaultRecord) : (s.repeatFatal r).latchValid = s.latchValid := rfl
@[simp] theorem State.repeatFatal_latchKey (s : State) (r : FaultRecord) : (s.repeatFatal r).latchKey = s.latchKey := rfl
@[simp] theorem State.repeatFatal_fault (s : State) (r : FaultRecord) : (s.repeatFatal r).fault = s.fault := rfl
@[simp] theorem State.repeatFatal_mem (s : State) (r : FaultRecord) : (s.repeatFatal r).mem = s.mem := rfl
@[simp] theorem State.repeatFatal_params (s : State) (r : FaultRecord) : (s.repeatFatal r).params = s.params := rfl
@[simp] theorem State.repeatFatal_rnd (s : State) (r : FaultRecord) : (s.repeatFatal r).rnd = s.rnd := rfl
@[simp] theorem State.repeatFatal_rndDraws (s : State) (r : FaultRecord) : (s.repeatFatal r).rndDraws = s.rndDraws := rfl
@[simp] theorem State.repeatFatal_status (s : State) (r : FaultRecord) : (s.repeatFatal r).status = .fatal r := rfl

/-! ### reportDecodeError -/

@[simp] theorem State.reportDecodeError_v (s : State) (w : Word) : (s.reportDecodeError w).v = s.v := rfl
@[simp] theorem State.reportDecodeError_ireg (s : State) (w : Word) : (s.reportDecodeError w).ireg = s.ireg := rfl
@[simp] theorem State.reportDecodeError_pc (s : State) (w : Word) : (s.reportDecodeError w).pc = s.pc := rfl
@[simp] theorem State.reportDecodeError_sp (s : State) (w : Word) : (s.reportDecodeError w).sp = s.sp := rfl
@[simp] theorem State.reportDecodeError_stack (s : State) (w : Word) : (s.reportDecodeError w).stack = s.stack := rfl
@[simp] theorem State.reportDecodeError_dt (s : State) (w : Word) : (s.reportDecodeError w).dt = s.dt := rfl
@[simp] theorem State.reportDecodeError_st (s : State) (w : Word) : (s.reportDecodeError w).st = s.st := rfl
@[simp] theorem State.reportDecodeError_fb (s : State) (w : Word) : (s.reportDecodeError w).fb = s.fb := rfl
@[simp] theorem State.reportDecodeError_key (s : State) (w : Word) : (s.reportDecodeError w).key = s.key := rfl
@[simp] theorem State.reportDecodeError_latchValid (s : State) (w : Word) : (s.reportDecodeError w).latchValid = s.latchValid := rfl
@[simp] theorem State.reportDecodeError_latchKey (s : State) (w : Word) : (s.reportDecodeError w).latchKey = s.latchKey := rfl
@[simp] theorem State.reportDecodeError_fault (s : State) (w : Word) : (s.reportDecodeError w).fault = s.fault := rfl
@[simp] theorem State.reportDecodeError_mem (s : State) (w : Word) : (s.reportDecodeError w).mem = s.mem := rfl
@[simp] theorem State.reportDecodeError_params (s : State) (w : Word) : (s.reportDecodeError w).params = s.params := rfl
@[simp] theorem State.reportDecodeError_rnd (s : State) (w : Word) : (s.reportDecodeError w).rnd = s.rnd := rfl
@[simp] theorem State.reportDecodeError_rndDraws (s : State) (w : Word) : (s.reportDecodeError w).rndDraws = s.rndDraws := rfl
@[simp] theorem State.reportDecodeError_status (s : State) (w : Word) : (s.reportDecodeError w).status = .decodeError w := rfl

/-! ### setVFlag -/

@[simp] theorem State.setVFlag_ireg (s : State) (x : Reg) (b : Byte) (c : Bool) : (s.setVFlag x b c).ireg = s.ireg := rfl
@[simp] theorem State.setVFlag_pc (s : State) (x : Reg) (b : Byte) (c : Bool) : (s.setVFlag x b c).pc = s.pc := rfl
@[simp] theorem State.setVFlag_sp (s : State) (x : Reg) (b : Byte) (c : Bool) : (s.setVFlag x b c).sp = s.sp := rfl
@[simp] theorem State.setVFlag_stack (s : State) (x : Reg) (b : Byte) (c : Bool) : (s.setVFlag x b c).stack = s.stack := rfl
@[simp] theorem State.setVFlag_dt (s : State) (x : Reg) (b : Byte) (c : Bool) : (s.setVFlag x b c).dt = s.dt := rfl
@[simp] theorem State.setVFlag_st (s : State) (x : Reg) (b : Byte) (c : Bool) : (s.setVFlag x b c).st = s.st := rfl
@[simp] theorem State.setVFlag_fb (s : State) (x : Reg) (b : Byte) (c : Bool) : (s.setVFlag x b c).fb = s.fb := rfl
@[simp] theorem State.setVFlag_key (s : State) (x : Reg) (b : Byte) (c : Bool) : (s.setVFlag x b c).key = s.key := rfl
@[simp] theorem State.setVFlag_latchValid (s : State) (x : Reg) (b : Byte) (c : Bool) : (s.setVFlag x b c).latchValid = s.latchValid := rfl
@[simp] theorem State.setVFlag_latchKey (s : State) (x : Reg) (b : Byte) (c : Bool) : (s.setVFlag x b c).latchKey = s.latchKey := rfl
@[simp] theorem State.setVFlag_fault (s : State) (x : Reg) (b : Byte) (c : Bool) : (s.setVFlag x b c).fault = s.fault := rfl
@[simp] theorem State.setVFlag_mem (s : State) (x : Reg) (b : Byte) (c : Bool) : (s.setVFlag x b c).mem = s.mem := rfl
@[simp] theorem State.setVFlag_params (s : State) (x : Reg) (b : Byte) (c : Bool) : (s.setVFlag x b c).params = s.params := rfl
@[simp] theorem State.setVFlag_rnd (s : State) (x : Reg) (b : Byte) (c : Bool) : (s.setVFlag x b c).rnd = s.rnd := rfl
@[simp] theorem State.setVFlag_rndDraws (s : State) (x : Reg) (b : Byte) (c : Bool) : (s.setVFlag x b c).rndDraws = s.rndDraws := rfl
@[simp] theorem State.setVFlag_status (s : State) (x : Reg) (b : Byte) (c : Bool) : (s.setVFlag x b c).status = s.status := rfl

/-! ### skipIf -/

@[simp] theorem State.skipIf_v (s : State) (c : Bool) : (s.skipIf c).v = s.v := by unfold State.skipIf; split <;> rfl
@[simp] theorem State.skipIf_ireg (s : State) (c : Bool) : (s.skipIf c).ireg = s.ireg := by unfold State.skipIf; split <;> rfl
@[simp] theorem State.skipIf_pc (s : State) (c : Bool) : (s.skipIf c).pc = if c then s.pc + 2#16 else s.pc := by unfold State.skipIf; split <;> rfl
@[simp] theorem State.skipIf_sp (s : State) (c : Bool) : (s.skipIf c).sp = s.sp := by unfold State.skipIf; split <;> rfl
@[simp] theorem State.skipIf_stack (s : State) (c : Bool) : (s.skipIf c).stack = s.stack := by unfold State.skipIf; split <;> rfl
@[simp] theorem State.skipIf_dt (s : State) (c : Bool) : (s.skipIf c).dt = s.dt := by unfold State.skipIf; split <;> rfl
@[simp] theorem State.skipIf_st (s : State) (c : Bool) : (s.skipIf c).st = s.st := by unfold State.skipIf; split <;> rfl
@[simp] theorem State.skipIf_fb (s : State) (c : Bool) : (s.skipIf c).fb = s.fb := by unfold State.skipIf; split <;> rfl
@[simp] theorem State.skipIf_key (s : State) (c : Bool) : (s.skipIf c).key = s.key := by unfold State.skipIf; split <;> rfl
@[simp] theorem State.skipIf_latchValid (s : State) (c : Bool) : (s.skipIf c).latchValid = s.latchValid := by unfold State.skipIf; split <;> rfl
@[simp] theorem State.skipIf_latchKey (s : State) (c : Bool) : (s.skipIf c).latchKey = s.latchKey := by unfold State.skipIf; split <;> rfl
@[simp] theorem State.skipIf_fault (s : State) (c : Bool) : (s.skipIf c).fault = s.fault := by unfold State.skipIf; split <;> rfl
@[simp] theorem State.skipIf_mem (s : State) (c : Bool) : (s.skipIf c).mem = s.mem := by unfold State.skipIf; split <;> rfl
@[simp] theorem State.skipIf_params (s : State) (c : Bool) : (s.skipIf c).params = s.params := by unfold State.skipIf; split <;> rfl
@[simp] theorem State.skipIf_rnd (s : State) (c : Bool) : (s.skipIf c).rnd = s.rnd := by unfold State.skipIf; split <;> rfl
@[simp] theorem State.skipIf_rndDraws (s : State) (c : Bool) : (s.skipIf c).rndDraws = s.rndDraws := by unfold State.skipIf; split <;> rfl
@[simp] theorem State.skipIf_status (s : State) (c : Bool) : (s.skipIf c).status = s.status := by unfold State.skipIf; split <;> rfl

/-! ### endStep -/

@[simp] theorem State.endStep_v (s : State) : (s.endStep).v = s.v := by unfold State.endStep; split <;> rfl
@[simp] theorem State.endStep_ireg (s : State) : (s.endStep).ireg = s.ireg := by unfold State.endStep; split <;> rfl
@[simp] theorem State.endStep_pc (s : State) : (s.endStep).pc = s.pc := by unfold State.endStep; split <;> rfl
@[simp] theorem State.endStep_sp (s : State) : (s.endStep).sp = s.sp := by unfold State.endStep; split <;> rfl
@[simp] theorem State.endStep_stack (s : State) : (s.endStep).stack = s.stack := by unfold State.endStep; split <;> rfl
@[simp] theorem State.endStep_dt (s : State) : (s.endStep).dt = s.dt := by unfold State.endStep; split <;> rfl
@[simp] theorem State.endStep_st (s : State) : (s.endStep).st = s.st := by unfold State.endStep; split <;> rfl
@[simp] theorem State.endStep_fb (s : State) : (s.endStep).fb = s.fb := by unfold State.endStep; split <;> rfl
@[simp] theorem State.endStep_key (s : State) : (s.endStep).key = s.key := by unfold State.endStep; split <;> rfl
@[simp] theorem State.endStep_latchKey (s : State) : (s.endStep).latchKey = s.latchKey := by unfold State.endStep; split <;> rfl
@[simp] theorem State.endStep_fault (s : State) : (s.endStep).fault = s.fault := by unfold State.endStep; split <;> rfl
@[simp] theorem State.endStep_mem (s : State) : (s.endStep).mem = s.mem := by unfold State.endStep; split <;> rfl
@[simp] theorem State.endStep_params (s : State) : (s.endStep).params = s.params := by unfold State.endStep; split <;> rfl
@[simp] theorem State.endStep_rnd (s : State) : (s.endStep).rnd = s.rnd := by unfold State.endStep; split <;> rfl
@[simp] theorem State.endStep_rndDraws (s : State) : (s.endStep).rndDraws = s.rndDraws := by unfold State.endStep; split <;> rfl
@[simp] theorem State.endStep_status (s : State) : (s.endStep).status = s.status := by unfold State.endStep; split <;> rfl
@[simp] theorem State.endStep_latchValid (s : State) :
    s.endStep.latchValid = (s.latchValid && !(s.params.latchClearOnStep && s.fault.isNone)) := by
  unfold State.endStep; cases h : (s.params.latchClearOnStep && s.fault.isNone) <;> simp

/-! ### storeBytes -/

@[simp] theorem State.storeBytes_v (s : State) (a : Nat) (bs : List Byte) : (s.storeBytes a bs).v = s.v := by
  induction bs generalizing s a with
  | nil => rfl
  | cons b bs ih => simp [State.storeBytes, ih]
@[simp] theorem State.storeBytes_ireg (s : State) (a : Nat) (bs : List Byte) : (s.storeBytes a bs).ireg = s.ireg := by
  induction bs generalizing s a with
  | nil => rfl
  | cons b bs ih => simp [State.storeBytes, ih]
@[simp] theorem State.storeBytes_pc (s : State) (a : Nat) (bs : List Byte) : (s.storeBytes a bs).pc = s.pc := by
  induction bs generalizing s a with
  | nil => rfl
  | cons b bs ih => simp [State.storeBytes, ih]
@[simp] theorem State.storeBytes_sp (s : State) (a : Nat) (bs : List Byte) : (s.storeBytes a bs).sp = s.sp := by
  induction bs generalizing s a with
  | nil => rfl
  | cons b bs ih => simp [State.storeBytes, ih]
@[simp] theorem State.storeBytes_stack (s : State) (a : Nat) (bs : List Byte) : (s.storeBytes a bs).stack = s.stack := by
  induction bs generalizing s a with
  | nil => rfl
  | cons b bs ih => simp [State.storeBytes, ih]
@[simp] theorem State.storeBytes_dt (s : State) (a : Nat) (bs : List Byte) : (s.storeBytes a bs).dt = s.dt := by
  induction bs generalizing s a with
  | nil => rfl
  | cons b bs ih => simp [State.storeBytes, ih]
@[simp] theorem State.storeBytes_st (s : State) (a : Nat) (bs : List Byte) : (s.storeBytes a bs).st = s.st := by
  induction bs generalizing s a with
  | nil => rfl
  | cons b bs ih => simp [State.storeBytes, ih]
@[simp] theorem State.storeBytes_fb (s : State) (a : Nat) (bs : List Byte) : (s.storeBytes a bs).fb = s.fb := by
  induction bs generalizing s a with
  | nil => rfl
  | cons b bs ih => simp [State.storeBytes, ih]
@[simp] theorem State.storeBytes_key (s : State) (a : Nat) (bs : List Byte) : (s.storeBytes a bs).key = s.key := by
  induction bs generalizing s a with
  | nil => rfl
  | cons b bs ih => simp [State.storeBytes, ih]
@[simp] theorem State.storeBytes_latchValid (s : State) (a : Nat) (bs : List Byte) : (s.storeBytes a bs).latchValid = s.latchValid := by
  induction bs generalizing s a with
  | nil => rfl
  | cons b bs ih => simp [State.storeBytes, ih]
@[simp] theorem State.storeBytes_latchKey (s : State) (a : Nat) (bs : List Byte) : (s.storeBytes a bs).latchKey = s.latchKey := by
  induction bs generalizing s a with
  | nil => rfl
  | cons b bs ih => simp [State.storeBytes, ih]
@[simp] theorem State.storeBytes_fault (s : State) (a : Nat) (bs : List Byte) : (s.storeBytes a bs).fault = s.fault := by
  induction bs generalizing s a with
  | nil => rfl
  | cons b bs ih => simp [State.storeBytes, ih]
@[simp] theorem State.storeBytes_params (s : State) (a : Nat) (bs : List Byte) : (s.storeBytes a bs).params = s.params := by
  induction bs generalizing s a with
  | nil => rfl
  | cons b bs ih => simp [State.storeBytes, ih]
@[simp] theorem State.storeBytes_rnd (s : State) (a : Nat) (bs : List Byte) : (s.storeBytes a bs).rnd = s.rnd := by
  induction bs generalizing s a with
  | nil => rfl
  | cons b bs ih => simp [State.storeBytes, ih]
@[simp] theorem State.storeBytes_rndDraws (s : State) (a : Nat) (bs : List Byte) : (s.storeBytes a bs).rndDraws = s.rndDraws := by
  induction bs generalizing s a with
  | nil => rfl
  | cons b bs ih => simp [State.storeBytes, ih]
@[simp] theorem State.storeBytes_status (s : State) (a : Nat) (bs : List Byte) : (s.storeBytes a bs).status = s.status := by
  induction bs generalizing s a with
  | nil => rfl
  | cons b bs ih => simp [State.storeBytes, ih]

/-! ### setRegs -/

@[simp] theorem State.setRegs_ireg (s : State) (k : Nat) (bs : List Byte) : (s.setRegs k bs).ireg = s.ireg := by
  induction bs generalizing s k with
  | nil => rfl
  | cons b bs ih => simp [State.setRegs, ih]
@[simp] theorem State.setRegs_pc (s : State) (k : Nat) (bs : List Byte) : (s.setRegs k bs).pc = s.pc := by
  induction bs generalizing s k with
  | nil => rfl
  | cons b bs ih => simp [State.setRegs, ih]
@[simp] theorem State.setRegs_sp (s : State) (k : Nat) (bs : List Byte) : (s.setRegs k bs).sp = s.sp := by
  induction bs generalizing s k with
  | nil => rfl
  | cons b bs ih => simp [State.setRegs, ih]
@[simp] theorem State.setRegs_stack (s : State) (k : Nat) (bs : List Byte) : (s.setRegs k bs).stack = s.stack := by
  induction bs generalizing s k with
  | nil => rfl
  | cons b bs ih => simp [State.setRegs, ih]
@[simp] theorem State.setRegs_dt (s : State) (k : Nat) (bs : List Byte) : (s.setRegs k bs).dt = s.dt := by
  induction bs generalizing s k with
  | nil => rfl
  | cons b bs ih => simp [State.setRegs, ih]
@[simp] theorem State.setRegs_st (s : State) (k : Nat) (bs : List Byte) : (s.setRegs k bs).st = s.st := by
  induction bs generalizing s k with
  | nil => rfl
  | cons b bs ih => simp [State.setRegs, ih]
@[simp] theorem State.setRegs_fb (s : State) (k : Nat) (bs : List Byte) : (s.setRegs k bs).fb = s.fb := by
  induction bs generalizing s k with
  | nil => rfl
  | cons b bs ih => simp [State.setRegs, ih]
@[simp] theorem State.setRegs_key (s : State) (k : Nat) (bs : List Byte) : (s.setRegs k bs).key = s.key := by
  induction bs generalizing s k with
  | nil => rfl
  | cons b bs ih => simp [State.setRegs, ih]
@[simp] theorem State.setRegs_latchValid (s : State) (k : Nat) (bs : List Byte) : (s.setRegs k bs).latchValid = s.latchValid := by
  induction bs generalizing s k with
  | nil => rfl
  | cons b bs ih => simp [State.setRegs, ih]
@[simp] theorem State.setRegs_latchKey (s : State) (k : Nat) (bs : List Byte) : (s.setRegs k bs).latchKey = s.latchKey := by
  induction bs generalizing s k with
  | nil => rfl
  | cons b bs ih => simp [State.setRegs, ih]
@[simp] theorem State.setRegs_fault (s : State) (k : Nat) (bs : List Byte) : (s.setRegs k bs).fault = s.fault := by
  induction bs generalizing s k with
  | nil => rfl
  | cons b bs ih => simp [State.setRegs, ih]
@[simp] theorem State.setRegs_mem (s : State) (k : Nat) (bs : List Byte) : (s.setRegs k bs).mem = s.mem := by
  induction bs generalizing s k with
  | nil => rfl
  | cons b bs ih => simp [State.setRegs, ih]
@[simp] theorem State.setRegs_params (s : State) (k : Nat) (bs : List Byte) : (s.setRegs k bs).params = s.params := by
  induction bs generalizing s k with
  | nil => rfl
  | cons b bs ih => simp [State.setRegs, ih]
@[simp] theorem State.setRegs_rnd (s : State) (k : Nat) (bs : List Byte) : (s.setRegs k bs).rnd = s.rnd := by
  induction bs generalizing s k with
  | nil => rfl
  | cons b bs ih => simp [State.setRegs, ih]
@[simp] theorem State.setRegs_rndDraws (s : State) (k : Nat) (bs : List Byte) : (s.setRegs k bs).rndDraws = s.rndDraws := by
  induction bs generalizing s k with
  | nil => rfl
  | cons b bs ih => simp [State.setRegs, ih]
@[simp] theorem State.setRegs_status (s : State) (k : Nat) (bs : List Byte) : (s.setRegs k bs).status = s.status := by
  induction bs generalizing s k with
  | nil => rfl
  | cons b bs ih => simp [State.setRegs, ih]

/-! ### draw -/

@[simp] theorem State.draw_ireg (s : State) (x y : Reg) (n : Nibble) : (s.draw x y n).ireg = s.ireg := rfl
@[simp] theorem State.draw_pc (s : State) (x y : Reg) (n : Nibble) : (s.draw x y n).pc = s.pc := rfl
@[simp] theorem State.draw_sp (s : State) (x y : Reg) (n : Nibble) : (s.draw x y n).sp = s.sp := rfl
@[simp] theorem State.draw_stack (s : State) (x y : Reg) (n : Nibble) : (s.draw x y n).stack = s.stack := rfl
@[simp] theorem State.draw_dt (s : State) (x y : Reg) (n : Nibble) : (s.draw x y n).dt = s.dt := rfl
@[simp] theorem State.draw_st (s : State) (x y : Reg) (n : Nibble) : (s.draw x y n).st = s.st := rfl
@[simp] theorem State.draw_fb (s : State) (x y : Reg) (n : Nibble) : (s.draw x y n).fb = (blit (spriteX (s.getV x)) (spriteY (s.getV y)) (s.loadBytes s.indexAddr n.toNat) s.fb).1 := rfl
@[simp] theorem State.draw_key (s : State) (x y : Reg) (n : Nibble) : (s.draw x y n).key = s.key := rfl
@[simp] theorem State.draw_latchValid (s : State) (x y : Reg) (n : Nibble) : (s.draw x y n).latchValid = s.latchValid := rfl
@[simp] theorem State.draw_latchKey (s : State) (x y : Reg) (n : Nibble) : (s.draw x y n).latchKey = s.latchKey := rfl
@[simp] theorem State.draw_fault (s : State) (x y : Reg) (n : Nibble) : (s.draw x y n).fault = s.fault := rfl
@[simp] theorem State.draw_mem (s : State) (x y : Reg) (n : Nibble) : (s.draw x y n).mem = s.mem := rfl
@[simp] theorem State.draw_params (s : State) (x y : Reg) (n : Nibble) : (s.draw x y n).params = s.params := rfl
@[simp] theorem State.draw_rnd (s : State) (x y : Reg) (n : Nibble) : (s.draw x y n).rnd = s.rnd := rfl
@[simp] theorem State.draw_rndDraws (s : State) (x y : Reg) (n : Nibble) : (s.draw x y n).rndDraws = s.rndDraws := rfl
@[simp] theorem State.draw_status (s : State) (x y : Reg) (n : Nibble) : (s.draw x y n).status = s.status := rfl

/-! ### tick -/

@[simp] theorem State.tick_v (s : State) : (s.tick).v = s.v := rfl
@[simp] theorem State.tick_ireg (s : State) : (s.tick).ireg = s.ireg := rfl
@[simp] theorem State.tick_pc (s : State) : (s.tick).pc = s.pc := rfl
@[simp] theorem State.tick_sp (s : State) : (s.tick).sp = s.sp := rfl
@[simp] theorem State.tick_stack (s : State) : (s.tick).stack = s.stack := rfl
@[simp] theorem State.tick_dt (s : State) : (s.tick).dt = countDown s.dt := rfl
@[simp] theorem State.tick_st (s : State) : (s.tick).st = countDown s.st := rfl
@[simp] theorem State.tick_fb (s : State) : (s.tick).fb = s.fb := rfl
@[simp] theorem State.tick_key (s : State) : (s.tick).key = s.key := rfl
@[simp] theorem State.tick_latchValid (s : State) : (s.tick).latchValid = s.latchValid := rfl
@[simp] theorem State.tick_latchKey (s : State) : (s.tick).latchKey = s.latchKey := rfl
@[simp] theorem State.tick_fault (s : State) : (s.tick).fault = s.fault := rfl
@[simp] theorem State.tick_mem (s : State) : (s.tick).mem = s.mem := rfl
@[simp] theorem State.tick_params (s : State) : (s.tick).params = s.params := rfl
@[simp] theorem State.tick_rnd (s : State) : (s.tick).rnd = s.rnd := rfl
@[simp] theorem State.tick_rndDraws (s : State) : (s.tick).rndDraws = s.rndDraws := rfl
@[simp] theorem State.tick_status (s : State) : (s.tick).status = s.status := rfl

/-! ### pressKey -/

@[simp] theorem State.pressKey_v (s : State) (k : Nibble) : (s.pressKey k).v = s.v := rfl
@[simp] theorem State.pressKey_ireg (s : State) (k : Nibble) : (s.pressKey k).ireg = s.ireg := rfl
@[simp] theorem State.pressKey_pc (s : State) (k : Nibble) : (s.pressKey k).pc = s.pc := rfl
@[simp] theorem State.pressKey_sp (s : State) (k : Nibble) : (s.pressKey k).sp = s.sp := rfl
@[simp] theorem State.pressKey_stack (s : State) (k : Nibble) : (s.pressKey k).stack = s.stack := rfl
@[simp] theorem State.pressKey_dt (s : State) (k : Nibble) : (s.pressKey k).dt = s.dt := rfl
@[simp] theorem State.pressKey_st (s : State) (k : Nibble) : (s.pressKey k).st = s.st := rfl
@[simp] theorem State.pressKey_fb (s : State) (k : Nibble) : (s.pressKey k).fb = s.fb := rfl
@[simp] theorem State.pressKey_latchValid (s : State) (k : Nibble) : (s.pressKey k).latchValid = true := rfl
@[simp] theorem State.pressKey_latchKey (s : State) (k : Nibble) : (s.pressKey k).latchKey = k := rfl
@[simp] theorem State.pressKey_fault (s : State) (k : Nibble) : (s.pressKey k).fault = s.fault := rfl
@[simp] theorem State.pressKey_mem (s : State) (k : Nibble) : (s.pressKey k).mem = s.mem := rfl
@[simp] theorem State.pressKey_params (s : State) (k : Nibble) : (s.pressKey k).params = s.params := rfl
@[simp] theorem State.pressKey_rnd (s : State) (k : Nibble) : (s.pressKey k).rnd = s.rnd := rfl
@[simp] theorem State.pressKey_rndDraws (s : State) (k : Nibble) : (s.pressKey k).rndDraws = s.rndDraws := rfl
@[simp] theorem State.pressKey_status (s : State) (k : Nibble) : (s.pressKey k).status = s.status := rfl

/-! ### releaseKey -/

@[simp] theorem State.releaseKey_v (s : State) (k : Nibble) : (s.releaseKey k).v = s.v := rfl
@[simp] theorem State.releaseKey_ireg (s : State) (k : Nibble) : (s.releaseKey k).ireg = s.ireg := rfl
@[simp] theorem State.releaseKey_pc (s : State) (k : Nibble) : (s.releaseKey k).pc = s.pc := rfl
@[simp] theorem State.releaseKey_sp (s : State) (k : Nibble) : (s.releaseKey k).sp = s.sp := rfl
@[simp] theorem State.releaseKey_stack (s : State) (k : Nibble) : (s.releaseKey k).stack = s.stack := rfl
@[simp] theorem State.releaseKey_dt (s : State) (k : Nibble) : (s.releaseKey k).dt = s.dt := rfl
@[simp] theorem State.releaseKey_st (s : State) (k : Nibble) : (s.releaseKey k).st = s.st := rfl
@[simp] theorem State.releaseKey_fb (s : State) (k : Nibble) : (s.releaseKey k).fb = s.fb := rfl
@[simp] theorem State.releaseKey_latchValid (s : State) (k : Nibble) : (s.releaseKey k).latchValid = s.latchValid := rfl
@[simp] theorem State.releaseKey_latchKey (s : State) (k : Nibble) : (s.releaseKey k).latchKey = s.latchKey := rfl
@[simp] theorem State.releaseKey_fault (s : State) (k : Nibble) : (s.releaseKey k).fault = s.fault := rfl
@[simp] theorem State.releaseKey_mem (s : State) (k : Nibble) : (s.releaseKey k).mem = s.mem := rfl
@[simp] theorem State.releaseKey_params (s : State) (k : Nibble) : (s.releaseKey k).params = s.params := rfl
@[simp] theorem State.releaseKey_rnd (s : State) (k : Nibble) : (s.releaseKey k).rnd = s.rnd := rfl
@[simp] theorem State.releaseKey_rndDraws (s : State) (k : Nibble) : (s.releaseKey k).rndDraws = s.rndDraws := rfl
@[simp] theorem State.releaseKey_status (s : State) (k : Nibble) : (s.releaseKey k).status = s.status := rfl

end Sys2Proof.Machine
end

