-- ==== Sys2Proof/Laws/Display.lean ====
section
/-! SUPPORT. Reading a pixel after one is flipped, and one turn of the pixel loop (44_display.md R301). -/

namespace Sys2Proof.Machine

theorem getPixel_off_grid (fb : Framebuffer) {x y : Nat} (h : ¬ (x < 64 ∧ y < 32)) : getPixel fb x y = false := by
  rw [getPixel, dif_neg h]

/-- A flip turns its pixel over, when it is on the grid, and leaves the others. -/
theorem getPixel_flipPixel (fb : Framebuffer) (x y px py : Nat) :
    getPixel (flipPixel fb x y) px py =
      if px = x ∧ py = y ∧ x < 64 ∧ y < 32 then !getPixel fb px py else getPixel fb px py := by
  by_cases h : x < 64 ∧ y < 32
  · by_cases hp : px < 64 ∧ py < 32
    · obtain ⟨hx, hy⟩ := h
      obtain ⟨hpx, hpy⟩ := hp
      simp only [getPixel, flipPixel, hx, hy, hpx, hpy, and_self, dite_true, Vector.getElem_set, and_true]
      by_cases hpy' : y = py
      · subst hpy'
        by_cases hpx' : x = px
        · subst hpx'; simp
        · simp [hpx', show ¬ px = x by omega]
      · simp [hpy', show ¬ py = y by omega]
    · rw [getPixel_off_grid _ hp, if_neg (by omega), getPixel_off_grid _ hp]
  · rw [flipPixel, dif_neg h, if_neg (by tauto)]

@[simp] theorem getPixel_clearFb (x y : Nat) : getPixel clearFb x y = false := by
  unfold getPixel clearFb
  split <;> simp

/-- Framebuffers with the same pixels are the same. -/
theorem fb_ext {f g : Framebuffer} (h : ∀ x y, x < 64 → y < 32 → getPixel f x y = getPixel g x y) : f = g := by
  apply Vector.ext
  intro y hy
  apply Vector.ext
  intro x hx
  simpa [getPixel, hx, hy] using h x y hx hy

/-- Everything one turn of the loop does to a pixel. -/
theorem getPixel_blitBit (x0 py0 : Nat) (row : Byte) (acc : Framebuffer × Bool) (c px py : Nat) :
    getPixel (blitBit x0 py0 row acc c).1 px py =
      (getPixel acc.1 px py ^^
        decide (row.getLsbD (7 - c) = true ∧ x0 + c < 64 ∧ py0 < 32 ∧ px = x0 + c ∧ py = py0)) := by
  by_cases h : row.getLsbD (7 - c) = true ∧ x0 + c < Config.fbWidth ∧ py0 < Config.fbHeight
  · rw [blitBit, if_pos h, getPixel_flipPixel]
    simp only [Config.fbWidth, Config.fbHeight] at h
    by_cases hp : px = x0 + c ∧ py = py0
    · simp [hp, h]
    · rw [if_neg (by tauto), decide_eq_false (by tauto), Bool.xor_false]
  · rw [blitBit, if_neg h]
    simp only [Config.fbWidth, Config.fbHeight] at h
    rw [decide_eq_false (by tauto), Bool.xor_false]

/-- Everything one turn of the loop does to the collision flag. -/
theorem blitBit_collision (x0 py0 : Nat) (row : Byte) (acc : Framebuffer × Bool) (c : Nat) :
    (blitBit x0 py0 row acc c).2 =
      (acc.2 || decide (row.getLsbD (7 - c) = true ∧ x0 + c < 64 ∧ py0 < 32 ∧ getPixel acc.1 (x0 + c) py0 = true)) := by
  by_cases h : row.getLsbD (7 - c) = true ∧ x0 + c < Config.fbWidth ∧ py0 < Config.fbHeight
  · rw [blitBit, if_pos h]
    simp only [Config.fbWidth, Config.fbHeight] at h
    simp [h]
  · rw [blitBit, if_neg h]
    simp only [Config.fbWidth, Config.fbHeight] at h
    rw [decide_eq_false (by tauto), Bool.or_false]

end Sys2Proof.Machine
end

