-- ==== Sys2Proof/Laws/Encoding.lean ====
section
/-! SUPPORT. The fields of an encoded word, and the words of the formats as the spec writes them (R103: `G << 12 | …`). -/

namespace Sys2Proof

/-! ### Fields of a word written nibble by nibble -/

theorem Word.group_nnn (g : Nibble) (a : Addr12) : Word.group (g ++ a) = g := by
  apply BitVec.eq_of_getLsbD_eq; intro i hi
  simp only [Word.group, BitVec.getLsbD_extractLsb', BitVec.getLsbD_append]
  rw [if_neg (by omega)]; simp [hi]

theorem Word.fieldNnn_nnn (g : Nibble) (a : Addr12) : Word.fieldNnn (g ++ a) = a := by
  apply BitVec.eq_of_getLsbD_eq; intro i hi
  simp only [Word.fieldNnn, BitVec.getLsbD_extractLsb', BitVec.getLsbD_append]
  rw [if_pos (by omega)]; simp [hi]

theorem Word.group_xnn (g : Nibble) (x : Reg) (b : Byte) : Word.group (g ++ x ++ b) = g := by
  apply BitVec.eq_of_getLsbD_eq; intro i hi
  simp only [Word.group, BitVec.getLsbD_extractLsb', BitVec.getLsbD_append]
  rw [if_neg (by omega), if_neg (by omega), show 12 + i - 8 - 4 = i by omega]; simp [hi]

theorem Word.fieldX_xnn (g : Nibble) (x : Reg) (b : Byte) : Word.fieldX (g ++ x ++ b) = x := by
  apply BitVec.eq_of_getLsbD_eq; intro i hi
  simp only [Word.fieldX, BitVec.getLsbD_extractLsb', BitVec.getLsbD_append]
  rw [if_neg (by omega), if_pos (by omega), show 8 + i - 8 = i by omega]; simp [hi]

theorem Word.fieldNn_xnn (g : Nibble) (x : Reg) (b : Byte) : Word.fieldNn (g ++ x ++ b) = b := by
  apply BitVec.eq_of_getLsbD_eq; intro i hi
  simp only [Word.fieldNn, BitVec.getLsbD_extractLsb', BitVec.getLsbD_append]
  rw [if_pos (by omega)]; simp [hi]

theorem Word.group_xyn (g : Nibble) (x y : Reg) (n : Nibble) : Word.group (g ++ x ++ y ++ n) = g := by
  apply BitVec.eq_of_getLsbD_eq; intro i hi
  simp only [Word.group, BitVec.getLsbD_extractLsb', BitVec.getLsbD_append]
  rw [if_neg (by omega), if_neg (by omega), if_neg (by omega), show 12 + i - 4 - 4 - 4 = i by omega]; simp [hi]

theorem Word.fieldX_xyn (g : Nibble) (x y : Reg) (n : Nibble) : Word.fieldX (g ++ x ++ y ++ n) = x := by
  apply BitVec.eq_of_getLsbD_eq; intro i hi
  simp only [Word.fieldX, BitVec.getLsbD_extractLsb', BitVec.getLsbD_append]
  rw [if_neg (by omega), if_neg (by omega), if_pos (by omega), show 8 + i - 4 - 4 = i by omega]; simp [hi]

theorem Word.fieldY_xyn (g : Nibble) (x y : Reg) (n : Nibble) : Word.fieldY (g ++ x ++ y ++ n) = y := by
  apply BitVec.eq_of_getLsbD_eq; intro i hi
  simp only [Word.fieldY, BitVec.getLsbD_extractLsb', BitVec.getLsbD_append]
  rw [if_neg (by omega), if_pos (by omega), show 4 + i - 4 = i by omega]; simp [hi]

theorem Word.fieldN_xyn (g : Nibble) (x y : Reg) (n : Nibble) : Word.fieldN (g ++ x ++ y ++ n) = n := by
  apply BitVec.eq_of_getLsbD_eq; intro i hi
  simp only [Word.fieldN, BitVec.getLsbD_extractLsb', BitVec.getLsbD_append]
  rw [if_pos (by omega)]; simp [hi]

/-! ### A word is its fields -/

theorem Word.eq_group_nnn (w : Word) : Word.group w ++ Word.fieldNnn w = w := by
  apply BitVec.eq_of_getLsbD_eq; intro i hi
  simp only [Word.group, Word.fieldNnn, BitVec.getLsbD_extractLsb', BitVec.getLsbD_append]
  by_cases h : i < 12
  · simp [h]
  · rw [if_neg h, show 12 + (i - 12) = i by omega]; simp; omega

theorem Word.eq_group_x_nn (w : Word) : Word.group w ++ Word.fieldX w ++ Word.fieldNn w = w := by
  apply BitVec.eq_of_getLsbD_eq; intro i hi
  simp only [Word.group, Word.fieldX, Word.fieldNn, BitVec.getLsbD_extractLsb', BitVec.getLsbD_append]
  by_cases h : i < 8
  · simp [h]
  · by_cases h' : i - 8 < 4
    · rw [if_neg h, if_pos h', show 8 + (i - 8) = i by omega]; simp [h']
    · rw [if_neg h, if_neg h', show 12 + (i - 8 - 4) = i by omega]; simp; omega

theorem Word.eq_group_x_y_n (w : Word) : Word.group w ++ Word.fieldX w ++ Word.fieldY w ++ Word.fieldN w = w := by
  apply BitVec.eq_of_getLsbD_eq; intro i hi
  simp only [Word.group, Word.fieldX, Word.fieldY, Word.fieldN, BitVec.getLsbD_extractLsb', BitVec.getLsbD_append]
  by_cases h : i < 4
  · simp [h]
  · by_cases h' : i - 4 < 4
    · rw [if_neg h, if_pos h', show 4 + (i - 4) = i by omega]; simp [h']
    · by_cases h'' : i - 4 - 4 < 4
      · rw [if_neg h, if_neg h', if_pos h'', show 8 + (i - 4 - 4) = i by omega]; simp [h'']
      · rw [if_neg h, if_neg h', if_neg h'', show 12 + (i - 4 - 4 - 4) = i by omega]; simp; omega

/-! ### The formats as numbers -/

/-- Format `nnn` (R103): `G000 | nnn`. -/
theorem word_nnn (g : Nibble) (a : Addr12) : g.setWidth 16 <<< 12 ||| a.setWidth 16 = g ++ a := by
  rw [BitVec.append_def]; apply BitVec.eq_of_getLsbD_eq; intro i hi
  simp [BitVec.shiftLeftZeroExtend_eq]

/-- Format `xnn` (R103): `G000 | x<<8 | nn`. -/
theorem word_xnn (g : Nibble) (x : Reg) (b : Byte) :
    g.setWidth 16 <<< 12 ||| x.setWidth 16 <<< 8 ||| b.setWidth 16 = g ++ x ++ b := by
  apply BitVec.eq_of_getLsbD_eq; intro i hi
  simp only [BitVec.getLsbD_or, BitVec.getLsbD_shiftLeft, BitVec.getLsbD_setWidth, BitVec.getLsbD_append]
  by_cases h : i < 8
  · simp [h, hi, show i < 12 by omega]
  · by_cases h' : i - 8 < 4
    · simp [h, h', hi, show i < 12 by omega, show i - 8 < 16 by omega, BitVec.getLsbD_of_ge b i (by omega)]
    · simp [h, h', hi, show ¬ i < 12 by omega, show i - 12 < 16 by omega, show i - 8 - 4 = i - 12 by omega,
        BitVec.getLsbD_of_ge b i (by omega), BitVec.getLsbD_of_ge x (i - 8) (by omega)]

/-- Format `xyn` (R103): `G000 | x<<8 | y<<4 | n`. -/
theorem word_xyn (g : Nibble) (x y : Reg) (n : Nibble) :
    g.setWidth 16 <<< 12 ||| x.setWidth 16 <<< 8 ||| y.setWidth 16 <<< 4 ||| n.setWidth 16 = g ++ x ++ y ++ n := by
  apply BitVec.eq_of_getLsbD_eq; intro i hi
  simp only [BitVec.getLsbD_or, BitVec.getLsbD_shiftLeft, BitVec.getLsbD_setWidth, BitVec.getLsbD_append]
  by_cases h : i < 4
  · simp [h, hi, show i < 12 by omega, show i < 8 by omega]
  · by_cases h' : i - 4 < 4
    · simp [h, h', hi, show i < 12 by omega, show i < 8 by omega, show i - 4 < 16 by omega,
        BitVec.getLsbD_of_ge n i (by omega)]
    · by_cases h'' : i - 4 - 4 < 4
      · simp [h, h', hi, show i < 12 by omega, show ¬ i < 8 by omega, show i - 8 < 4 by omega, show i - 8 < 16 by omega,
          show i - 4 - 4 = i - 8 by omega, BitVec.getLsbD_of_ge n i (by omega),
          BitVec.getLsbD_of_ge y (i - 4) (by omega)]
      · simp [h, h', h'', hi, show ¬ i < 12 by omega, show i - 12 < 16 by omega,
          show i - 4 - 4 - 4 = i - 12 by omega, BitVec.getLsbD_of_ge n i (by omega),
          BitVec.getLsbD_of_ge y (i - 4) (by omega), BitVec.getLsbD_of_ge x (i - 8) (by omega)]

end Sys2Proof
end

