-- ==== Sys2Proof/Laws/Memory.lean ====
section
/-! SUPPORT. The laws of memory: reading after writing, and that every memory operation keeps the canonical form and the
font (20_memory.md R72, R81, R85). -/

namespace Sys2Proof.Machine

variable {p : Params}

/-! ### Reading after writing -/

/-- A listed run reads at an address below its first cell as `INIT` left it. -/
theorem Memory.read_below {low : Nat} {m : Memory} (h : Memory.wfFrom p low m = true) {a : Nat} (ha : a < low) :
    Memory.read p m a = initialByte p a := by
  induction m generalizing low with
  | nil => rfl
  | cons c rest ih =>
    simp only [Memory.wfFrom, Bool.and_eq_true, decide_eq_true_eq] at h
    rw [Memory.read, if_neg (by omega)]
    exact ih h.2 (by omega)

theorem Memory.read_cons (a b : _) (m : Memory) {k : Nat} (hk : k ≠ a) :
    Memory.read p (Memory.cons p a b m) k = Memory.read p m k := by
  unfold Memory.cons
  split
  · rfl
  · rw [Memory.read, if_neg (by simpa using hk.symm)]

theorem Memory.read_cons_same {a : Nat} {b : Byte} {m : Memory} (h : Memory.read p m a = initialByte p a) :
    Memory.read p (Memory.cons p a b m) a = b := by
  unfold Memory.cons
  split
  · next hb => rw [h, hb]
  · rw [Memory.read, if_pos rfl]

/-- "A write changes only the byte it names" (R81). -/
theorem Memory.read_write_other (m : Memory) {a k : Nat} (b : Byte) (h : k ≠ a) :
    Memory.read p (Memory.write p m a b) k = Memory.read p m k := by
  induction m with
  | nil => simp [Memory.write, Memory.read_cons _ _ _ h]
  | cons c rest ih =>
    unfold Memory.write
    split
    · rw [Memory.read_cons _ _ _ h]
    · split
      · next hc => rw [Memory.read_cons _ _ _ h, Memory.read, if_neg (by omega)]
      · rw [Memory.read, Memory.read, ih]

/-- A read returns the most recent write to its address (R85). -/
theorem Memory.read_write_same {low : Nat} {m : Memory} (hm : Memory.wfFrom p low m = true) (a : Nat) (b : Byte) :
    Memory.read p (Memory.write p m a b) a = b := by
  induction m generalizing low with
  | nil => exact Memory.read_cons_same rfl
  | cons c rest ih =>
    have h := hm
    simp only [Memory.wfFrom, Bool.and_eq_true, decide_eq_true_eq] at h
    unfold Memory.write
    split
    · next hc =>
      refine Memory.read_cons_same ?_
      rw [Memory.read, if_neg (by omega)]
      exact Memory.read_below h.2 (by omega)
    · split
      · next hc => exact Memory.read_cons_same (Memory.read_below h.2 (by omega))
      · next h1 h2 => rw [Memory.read, if_neg (by omega)]; exact ih h.2

/-! ### The canonical form -/

theorem Memory.wfFrom_mono {low low' : Nat} {m : Memory} (h : Memory.wfFrom p low m = true) (hl : low' ≤ low) :
    Memory.wfFrom p low' m = true := by
  cases m with
  | nil => rfl
  | cons c rest =>
    simp only [Memory.wfFrom, Bool.and_eq_true, decide_eq_true_eq] at h ⊢
    exact ⟨⟨⟨by omega, h.1.1.2⟩, h.1.2⟩, h.2⟩

theorem Memory.wfFrom_cons {low a : Nat} {b : Byte} {m : Memory} (hl : low ≤ a) (ha : a < Config.memSize)
    (h : Memory.wfFrom p (a + 1) m = true) : Memory.wfFrom p low (Memory.cons p a b m) = true := by
  unfold Memory.cons
  split
  · exact Memory.wfFrom_mono h (by omega)
  · next hb =>
    simp only [Memory.wfFrom, Bool.and_eq_true, decide_eq_true_eq]
    exact ⟨⟨⟨hl, ha⟩, hb⟩, h⟩

theorem Memory.wfFrom_write {low a : Nat} {m : Memory} (h : Memory.wfFrom p low m = true) (b : Byte) (hl : low ≤ a)
    (ha : a < Config.memSize) : Memory.wfFrom p low (Memory.write p m a b) = true := by
  induction m generalizing low with
  | nil => exact Memory.wfFrom_cons hl ha rfl
  | cons c rest ih =>
    have h' := h
    simp only [Memory.wfFrom, Bool.and_eq_true, decide_eq_true_eq] at h
    unfold Memory.write
    split
    · refine Memory.wfFrom_cons hl ha ?_
      simp only [Memory.wfFrom, Bool.and_eq_true, decide_eq_true_eq]
      exact ⟨⟨⟨by omega, h.1.1.2⟩, h.1.2⟩, h.2⟩
    · split
      · next hc => exact Memory.wfFrom_cons hl ha (hc ▸ h.2)
      · simp only [Memory.wfFrom, Bool.and_eq_true, decide_eq_true_eq]
        exact ⟨⟨⟨h.1.1.1, h.1.1.2⟩, h.1.2⟩, ih h.2 (by omega)⟩

/-- A write keeps the canonical form. -/
theorem Memory.wf_write {m : Memory} (h : Memory.wf p m = true) {a : Nat} (b : Byte) (ha : a < Config.memSize) :
    Memory.wf p (Memory.write p m a b) = true := Memory.wfFrom_write h b (Nat.zero_le a) ha

theorem Memory.mem_cons {a : Nat} {b : Byte} {m : Memory} {c : Host.Cell} (h : c ∈ Memory.cons p a b m) :
    c = (a, b) ∨ c ∈ m := by
  unfold Memory.cons at h
  split at h
  · exact .inr h
  · simpa using h

theorem Memory.mem_write {a : Nat} {b : Byte} {m : Memory} {c : Host.Cell} (h : c ∈ Memory.write p m a b) :
    c = (a, b) ∨ c ∈ m := by
  induction m with
  | nil => exact Memory.mem_cons h
  | cons d rest ih =>
    unfold Memory.write at h
    split at h
    · exact Memory.mem_cons h
    · split at h
      · exact (Memory.mem_cons h).imp_right (List.mem_cons_of_mem d)
      · rcases List.mem_cons.mp h with h | h
        · exact .inr (h ▸ List.mem_cons_self)
        · exact (ih h).imp_right (List.mem_cons_of_mem d)

/-- A write outside the font region leaves the font alone. -/
theorem Memory.fontIntact_write {m : Memory} (h : Memory.fontIntact p m = true) {a : Nat} (b : Byte)
    (ha : inFont p a = false) : Memory.fontIntact p (Memory.write p m a b) = true := by
  simp only [Memory.fontIntact, List.all_eq_true, Bool.not_eq_true'] at h ⊢
  intro c hc
  rcases Memory.mem_write hc with rfl | hc
  · exact ha
  · exact h c hc

/-- The memory of the machine after reset is in canonical form. -/
theorem Memory.wf_reset : Memory.wf State.reset.params State.reset.mem = true := rfl

/-! ### The state's memory operations -/

theorem State.memRead_memWrite_other (s : State) {a k : Nat} (b : Byte) (h : k ≠ a) :
    (s.memWrite a b).memRead k = s.memRead k := Memory.read_write_other s.mem b h

theorem State.memRead_memWrite_same {s : State} (h : Memory.wf s.params s.mem = true) (a : Nat) (b : Byte) :
    (s.memWrite a b).memRead a = b := Memory.read_write_same h a b

/-- Everything a run of stores does to memory: outside its bytes every address reads as before. -/
theorem State.memRead_storeBytes_outside (s : State) (a : Nat) (bs : List Byte) {k : Nat}
    (h : k < a ∨ a + bs.length ≤ k) : (s.storeBytes a bs).memRead k = s.memRead k := by
  induction bs generalizing s a with
  | nil => rfl
  | cons b bs ih =>
    simp only [List.length_cons] at h
    rw [State.storeBytes, ih _ _ (by omega), State.memRead_memWrite_other s b (by omega)]

/-- A run of stores inside the address space keeps the canonical form. -/
theorem State.wf_storeBytes {s : State} (h : Memory.wf s.params s.mem = true) (a : Nat) (bs : List Byte)
    (ha : bs = [] ∨ a + bs.length ≤ Config.memSize) : Memory.wf s.params (s.storeBytes a bs).mem = true := by
  induction bs generalizing s a with
  | nil => exact h
  | cons b bs ih =>
    simp only [List.length_cons, reduceCtorEq, false_or] at ha
    have := @ih (s.memWrite a b) (Memory.wf_write h b (by omega)) (a + 1) (by right; omega)
    simpa [State.storeBytes] using this

/-- Everything a run of stores inside the address space does to its own bytes: byte `j` of the run is at `a + j`. -/
theorem State.memRead_storeBytes_inside {s : State} (h : Memory.wf s.params s.mem = true) (a : Nat) (bs : List Byte)
    (ha : a + bs.length ≤ Config.memSize) {j : Nat} (hj : j < bs.length) :
    (s.storeBytes a bs).memRead (a + j) = bs.getD j 0#8 := by
  induction bs generalizing s a j with
  | nil => simp at hj
  | cons b bs ih =>
    simp only [List.length_cons] at ha hj
    have hw : Memory.wf (s.memWrite a b).params (s.memWrite a b).mem = true := Memory.wf_write h b (by omega)
    rw [State.storeBytes]
    cases j with
    | zero => rw [State.memRead_storeBytes_outside _ _ _ (by omega), Nat.add_zero, State.memRead_memWrite_same h]; rfl
    | succ j =>
      have := ih hw (a + 1) (by omega) (j := j) (by omega)
      rw [show a + 1 + j = a + (j + 1) by omega] at this
      simpa using this

/-- A run of stores clear of the font region leaves the font alone. -/
theorem State.fontIntact_storeBytes {s : State} (h : Memory.fontIntact s.params s.mem = true) (a : Nat) (bs : List Byte)
    (ha : ∀ j, j < bs.length → inFont s.params (a + j) = false) :
    Memory.fontIntact s.params (s.storeBytes a bs).mem = true := by
  induction bs generalizing s a with
  | nil => exact h
  | cons b bs ih =>
    have h0 : inFont s.params a = false := ha 0 (by simp)
    have := @ih (s.memWrite a b) (Memory.fontIntact_write h b h0) (a + 1) (by
      intro j hj
      have := ha (j + 1) (by simpa using hj)
      rwa [show a + (j + 1) = a + 1 + j by omega] at this)
    simpa [State.storeBytes] using this

/-- A byte of the font region reads as `INIT` left it, as long as no cell is listed there. -/
theorem Memory.read_unlisted {m : Memory} {a : Nat} (h : ∀ c ∈ m, c.1 ≠ a) : Memory.read p m a = initialByte p a := by
  induction m with
  | nil => rfl
  | cons c rest ih =>
    rw [Memory.read, if_neg (h c List.mem_cons_self)]
    exact ih fun d hd => h d (List.mem_cons_of_mem c hd)

/-! ### Checks -/

/-- No check failed exactly when each address passes. -/
theorem firstFault_eq_none_iff {check : Nat → Option FatalKind} {base n : Nat} :
    firstFault check base n = none ↔ ∀ k, k < n → check (base + k) = none := by
  simp [firstFault, List.findSome?_eq_none_iff]

/-- The reported kind is that of an address that fails while all below it pass (40_fetch_decode.md R152). -/
theorem firstFault_eq_some {check : Nat → Option FatalKind} {base n : Nat} {kind : FatalKind}
    (h : firstFault check base n = some kind) :
    ∃ k, k < n ∧ check (base + k) = some kind ∧ ∀ j, j < k → check (base + j) = none := by
  induction n with
  | zero => simp [firstFault] at h
  | succ n ih =>
    rw [firstFault, List.range_succ, List.findSome?_append, Option.or_eq_some_iff] at h
    rcases h with h | ⟨hn, h⟩
    · obtain ⟨k, hk, h1, h2⟩ := ih h
      exact ⟨k, by omega, h1, h2⟩
    · refine ⟨n, by omega, by simpa using h, ?_⟩
      exact firstFault_eq_none_iff.mp hn

theorem readFault_eq_none_iff {a : Nat} : readFault a = none ↔ a < Config.memSize := by
  unfold readFault; split <;> simp <;> omega

theorem writeFault_eq_none_iff {a : Nat} :
    writeFault p a = none ↔ a < Config.memSize ∧ inFont p a = false := by
  unfold writeFault
  split
  · simp; omega
  · split <;> simp_all

end Sys2Proof.Machine
end

