-- ==== Sys2Proof/Laws/Registers.lean ====
section
/-! SUPPORT. Reading a register or a key after a write, and what the runs of register writes and the flag write do. -/

namespace Sys2Proof.Machine

theorem State.getV_setV (s : State) (x r : Reg) (b : Byte) :
    (s.setV x b).getV r = if r = x then b else s.getV r := by
  simp only [State.getV, State.setV, Vector.getElem_set, ← BitVec.toNat_inj, eq_comm (a := x.toNat)]

@[simp] theorem State.getV_setV_same (s : State) (x : Reg) (b : Byte) : (s.setV x b).getV x = b := by
  simp [State.getV_setV]

theorem State.getV_setV_other (s : State) {x r : Reg} (b : Byte) (h : r ≠ x) : (s.setV x b).getV r = s.getV r := by
  simp [State.getV_setV, h]

/-- A register reads the same in two states with the same register file. -/
theorem State.getV_congr {s t : State} (h : t.v = s.v) (r : Reg) : t.getV r = s.getV r := by
  simp only [State.getV, h]

@[simp] theorem State.getV_setVFlag_flag (s : State) (x : Reg) (b : Byte) (c : Bool) :
    (s.setVFlag x b c).getV VF = flagByte c := by
  simp [State.setVFlag]

theorem State.getV_setVFlag (s : State) (x r : Reg) (b : Byte) (c : Bool) :
    (s.setVFlag x b c).getV r = if r = VF then flagByte c else if r = x then b else s.getV r := by
  simp [State.setVFlag, State.getV_setV]

/-- The selector of register `k` is `x` exactly when `k` is its number. -/
theorem reg_ofNat_eq_iff {k : Nat} (hk : k < 16) (x : Reg) : BitVec.ofNat 4 k = x ↔ k = x.toNat := by
  rw [← BitVec.toNat_inj, BitVec.toNat_ofNat, Nat.mod_eq_of_lt (by simpa using hk)]

/-- A run of register writes: register `k + j` receives byte `j`, and the others keep their values. -/
theorem State.getV_setRegs (s : State) (k : Nat) (bs : List Byte) (h : k + bs.length ≤ 16) (r : Reg) :
    (s.setRegs k bs).getV r =
      if k ≤ r.toNat ∧ r.toNat < k + bs.length then bs.getD (r.toNat - k) 0#8 else s.getV r := by
  induction bs generalizing s k with
  | nil => simp [State.setRegs]
  | cons b bs ih =>
    simp only [List.length_cons] at h
    rw [State.setRegs, ih _ _ (by omega), State.getV_setV]
    simp only [eq_comm (a := r), reg_ofNat_eq_iff (show k < 16 by omega), List.length_cons]
    by_cases h1 : k = r.toNat
    · rw [if_neg (by omega), if_pos h1, if_pos (by omega)]
      simp [← h1]
    · by_cases h2 : k + 1 ≤ r.toNat ∧ r.toNat < k + 1 + bs.length
      · rw [if_pos h2, if_pos (by omega)]
        have : r.toNat - k = (r.toNat - (k + 1)) + 1 := by omega
        simp [this]
      · rw [if_neg h2, if_neg h1, if_neg (by omega)]

@[simp] theorem State.length_getRegs (s : State) (n : Nat) : (s.getRegs n).length = n := by simp [State.getRegs]

@[simp] theorem State.length_loadBytes (s : State) (a n : Nat) : (s.loadBytes a n).length = n := by
  simp [State.loadBytes]

theorem State.getRegs_getD (s : State) {n k : Nat} (h : k < n) :
    (s.getRegs n).getD k 0#8 = s.getV (BitVec.ofNat 4 k) := by
  simp [State.getRegs, List.getD, h]

theorem State.loadBytes_getD (s : State) (a : Nat) {n k : Nat} (h : k < n) :
    (s.loadBytes a n).getD k 0#8 = s.memRead (a + k) := by
  simp [State.loadBytes, List.getD, h]

theorem State.keyDown_setKey (s : State) (k j : Nibble) (b : Bool) :
    (s.setKey k b).keyDown j = if j = k then b else s.keyDown j := by
  simp only [State.keyDown, State.setKey, Vector.getElem_set, ← BitVec.toNat_inj, eq_comm (a := k.toNat)]

/-- A key reads the same in two states with the same key matrix. -/
theorem State.keyDown_congr {s t : State} (h : t.key = s.key) (k : Nibble) : t.keyDown k = s.keyDown k := by
  simp only [State.keyDown, h]

/-- A slot reads the same in two states with the same stack. -/
theorem State.slot_congr {s t : State} (h : t.stack = s.stack) (j : Nat) : t.slot j = s.slot j := by
  simp only [State.slot, h]

/-- A pixel reads the same in two states with the same framebuffer. -/
theorem State.pixel_congr {s t : State} (h : t.fb = s.fb) (x y : Nat) : t.pixel x y = s.pixel x y := by
  simp only [State.pixel, h]

/-- A byte reads the same in two states with the same memory and parameters. -/
theorem State.memRead_congr {s t : State} (hm : t.mem = s.mem) (hp : t.params = s.params) (a : Nat) :
    t.memRead a = s.memRead a := by
  simp only [State.memRead, hm, hp]

end Sys2Proof.Machine
end

