-- ==== Sys2Proof/Laws/Step.lean ====
section
/-! SUPPORT. Everything a step can do, said once; the small facts a step is made of. -/

namespace Sys2Proof.Machine

/-- A decode error names the word itself. -/
theorem decodeError_word {w u : Word} (h : decode w = .decodeError u) : u = w := by
  unfold decode at h
  split at h <;>
    first
    | exact absurd h (by simp)
    | (simp only [decodeGroup0, decodeGroup5, decodeGroup8, decodeGroup9, decodeGroupE, decodeGroupF] at h
       split at h <;> first | exact (Decoded.decodeError.inj h).symm | exact absurd h (by simp) | skip
       all_goals (split at h <;> first | exact (Decoded.decodeError.inj h).symm | exact absurd h (by simp)))

/-- Every instruction has a next state: a fatal error is one, too (00_scope.md R12). -/
theorem exec_next (i : Instr) (s : State) : ∃ t, exec i s = .next t := by
  cases i <;> exact ⟨_, rfl⟩

/-- What a step can do (40_fetch_decode.md R140): repeat a fatal error, fault at the fetch, report a decode error, or
run the decoded instruction. -/
theorem step_cases {s t : State} (h : step s = .next t) :
    (∃ r, s.fault = some r ∧ t = s.repeatFatal r) ∨
    (s.fault = none ∧ s.fetchWord = none ∧ t = s.raiseFetch) ∨
    (∃ w, s.WillFetch w ∧ decode w = .decodeError w ∧ t = (s.advance.reportDecodeError w).endStep) ∨
    (∃ w i u, s.WillFetch w ∧ decode w = .instr i ∧ exec i s.advance = .next u ∧ t = u.endStep) := by
  unfold step at h
  cases hf : s.fault with
  | some r => rw [hf] at h; exact .inl ⟨r, rfl, (Host.Outcome.next.inj h).symm⟩
  | none =>
    rw [hf] at h
    cases hw : s.fetchWord with
    | none => rw [hw] at h; exact .inr (.inl ⟨rfl, rfl, (Host.Outcome.next.inj h).symm⟩)
    | some w =>
      rw [hw] at h
      cases hd : decode w with
      | decodeError u =>
        have hu := decodeError_word hd
        subst hu
        simp only [hd] at h
        exact .inr (.inr (.inl ⟨u, ⟨hf, hw⟩, hd, (Host.Outcome.next.inj h).symm⟩))
      | instr i =>
        obtain ⟨u, hu⟩ := exec_next i s.advance
        simp only [hd, hu] at h
        exact .inr (.inr (.inr ⟨w, i, u, ⟨hf, hw⟩, hd, hu, (Host.Outcome.next.inj h).symm⟩))

/-- A step that fetches a word of an instruction. -/
theorem step_of_instr {s u : State} {w : Word} {i : Instr} (hw : s.WillFetch w) (hd : decode w = .instr i)
    (hu : exec i s.advance = .next u) : step s = .next u.endStep := by
  simp [step, hw.1, hw.2, hd, hu]

/-- A step that fetches a decode error. -/
theorem step_of_decodeError {s : State} {w : Word} (hw : s.WillFetch w) (hd : decode w = .decodeError w) :
    step s = .next (s.advance.reportDecodeError w).endStep := by
  simp [step, hw.1, hw.2, hd]

/-- A step whose fetch faults. -/
theorem step_of_fetchFault {s : State} (hf : s.fault = none) (hw : s.fetchWord = none) : step s = .next s.raiseFetch := by
  simp [step, hf, hw]

/-- A step of a faulted block. -/
theorem step_of_faulted {s : State} {r : FaultRecord} (hf : s.fault = some r) : step s = .next (s.repeatFatal r) := by
  simp [step, hf]

/-- The fetch faults exactly when its second byte is no address. -/
theorem fetchWord_eq_none_iff {s : State} : s.fetchWord = none ↔ 4096 ≤ s.pc.toNat + 1 := by
  unfold State.fetchWord
  split <;> simp_all [Config.memSize]

theorem fetchWord_of_lt {s : State} (h : s.pc.toNat + 1 < 4096) :
    s.fetchWord = some (wordOfBytes (s.memRead s.pc.toNat) (s.memRead (s.pc.toNat + 1))) := by
  rw [State.fetchWord, if_neg (by simp only [Config.memSize]; omega)]

theorem pc_lt_of_willFetch {s : State} {w : Word} (h : s.WillFetch w) : s.pc.toNat + 1 < 4096 := by
  by_contra hc
  have := fetchWord_eq_none_iff.mpr (Nat.le_of_not_lt hc)
  rw [h.2] at this
  exact absurd this (by simp)

/-- The advance does not overflow where a word can be fetched (R141). -/
theorem advance_pc_toNat {s : State} (h : s.pc.toNat + 1 < 4096) : (s.pc + 2#16).toNat = s.pc.toNat + 2 := by
  rw [BitVec.toNat_add, BitVec.toNat_ofNat]; omega

/-- During `Execute`, `ia` is the address of the step's fetch (R144). -/
@[simp] theorem State.ia_advance (s : State) : s.advance.ia = s.pc := by
  simp [State.ia, State.advance]

/-- A step sees the state only through its fetch when it comes to what will run. -/
theorem willRun_unique {s : State} {i j : Instr} (hi : s.WillRun i) (hj : s.WillRun j) : i = j := by
  obtain ⟨w, hw, hd⟩ := hi
  obtain ⟨w', hw', hd'⟩ := hj
  have : w = w' := Option.some.inj (hw.2.symm.trans hw'.2)
  subst this
  exact Decoded.instr.inj (hd.symm.trans hd')

/-- A check that fails raises, one that passes goes on. -/
theorem checked_cases (s : State) (failed : Option FatalKind) (i : Instr) (next : State) :
    (∃ kind, failed = some kind ∧ s.checked failed i next = s.raiseIn kind i) ∨
    (failed = none ∧ s.checked failed i next = next) := by
  cases failed with
  | none => exact .inr ⟨rfl, rfl⟩
  | some kind => exact .inl ⟨kind, rfl, rfl⟩

/-- What `Push` can do (41_control_flow.md R170). -/
theorem push_cases (s : State) (w : Word) :
    (s.params.stackCapacity ≤ s.sp ∧ s.push w = none) ∨
    (s.sp < s.params.stackCapacity ∧ s.push w = some { s with stack := s.stack.set s.sp w, sp := s.sp + 1 }) := by
  unfold State.push
  split
  · exact .inl ⟨‹_›, rfl⟩
  · exact .inr ⟨by omega, rfl⟩

/-- What `Pop` can do (41_control_flow.md R171). -/
theorem pop_cases (s : State) :
    (s.sp = 0 ∧ s.pop = none) ∨ (0 < s.sp ∧ s.pop = some (s.slot (s.sp - 1), { s with sp := s.sp - 1 })) := by
  unfold State.pop
  split
  · exact .inl ⟨‹_›, rfl⟩
  · exact .inr ⟨by omega, rfl⟩

end Sys2Proof.Machine
end

