-- ==== Sys2Proof/Laws/Exec.lean ====
section
/-! SUPPORT. Everything an instruction can do, said once (`exec_cases`): no later proof needs to take the 34 meanings apart
to learn what an instruction leaves alone. -/

namespace Sys2Proof.Machine
/-- Everything a completed instruction (one that raises nothing) can do, field by field. -/
structure Completes (i : Instr) (s u : State) : Prop where
  regs : ∀ r, r ∉ writtenRegs i → u.getV r = s.getV r
  index : u.ireg = s.ireg ∨ (∃ nnn, i = .ldINnn nnn) ∨ (∃ x, i = .addIVx x) ∨ ∃ x, i = .ldFVx x
  pc : writesPc i = false → u.pc = s.pc
  pcValue : u.pc = s.pc ∨ u.pc = s.pc + 2#16 ∨ u.pc.toNat ≤ 0x10FE ∨
    (u.pc = s.slot (s.sp - 1) ∧ 0 < s.sp) ∨ u.pc = s.ia
  stack : (u.sp = s.sp ∧ u.stack = s.stack) ∨
    ((∃ nnn, i = .call nnn) ∧ s.sp < s.params.stackCapacity ∧ u.sp = s.sp + 1 ∧ u.stack = s.stack.set s.sp s.pc) ∨
    (i = .ret ∧ u.sp + 1 = s.sp ∧ u.stack = s.stack)
  dt : u.dt = s.dt ∨ ∃ x, i = .ldDtVx x ∧ u.dt = s.getV x
  st : u.st = s.st ∨ ∃ x, i = .ldStVx x ∧ u.st = s.getV x
  display : u.fb = s.fb ∨ i = .cls ∨ ∃ x y n, i = .drw x y n
  keys : u.key = s.key
  latchKey : u.latchKey = s.latchKey
  latchValid : u.latchValid = s.latchValid ∨ (u.latchValid = false ∧ ∃ x, i = .ldVxK x)
  fault : u.fault = s.fault
  memory : ∃ bs, u.mem = (s.storeBytes s.indexAddr bs).mem ∧ bs.length = storedBytes i ∧
    ∀ k, k < bs.length → writeFault s.params (s.indexAddr + k) = none
  params : u.params = s.params
  supply : (u.rnd = s.rnd ∧ u.rndDraws = s.rndDraws) ∨ ∃ x nn, i = .rnd x nn


/-- A run of register writes changes the register file only. -/
theorem State.setRegs_eq (s : State) (k : Nat) (bs : List Byte) :
    s.setRegs k bs = { s with v := (s.setRegs k bs).v } := by
  induction bs generalizing s k with
  | nil => rfl
  | cons b bs ih => rw [State.setRegs, ih]; rfl

/-- Doing nothing but setting the status completes; the others are this one with the fields that differ. -/
theorem Completes.nop {i : Instr} (s : State) (hb : storedBytes i = 0) : Completes i s s.complete where
  regs := fun _ _ => rfl
  index := .inl rfl
  pc := fun _ => rfl
  pcValue := .inl rfl
  stack := .inl ⟨rfl, rfl⟩
  dt := .inl rfl
  st := .inl rfl
  display := .inl rfl
  keys := rfl
  latchKey := rfl
  latchValid := .inl rfl
  fault := rfl
  memory := ⟨[], rfl, hb.symm, fun _ h => absurd h (Nat.not_lt_zero _)⟩
  params := rfl
  supply := .inl ⟨rfl, rfl⟩

/-- Completing with the fields of `V` outside `W` untouched and nothing else but `V` changed. -/
theorem Completes.of_regs {i : Instr} {s u : State} (hr : ∀ r, r ∉ writtenRegs i → u.getV r = s.getV r)
    (hb : storedBytes i = 0) (hu : u = { s with v := u.v, status := .ok }) : Completes i s u := by
  rw [hu] at hr ⊢
  exact { nop s hb with regs := hr }

/-- A register write completes. -/
theorem Completes.of_setV {i : Instr} {s : State} (x : Reg) (b : Byte) (hx : x ∈ writtenRegs i)
    (hb : storedBytes i = 0) : Completes i s (s.setV x b).complete :=
  .of_regs (fun r hr => State.getV_setV_other s b (by rintro rfl; exact hr hx)) hb rfl

/-- A register and flag write completes. -/
theorem Completes.of_setVFlag {i : Instr} {s : State} (x : Reg) (b : Byte) (c : Bool) (hx : x ∈ writtenRegs i)
    (hf : VF ∈ writtenRegs i) (hb : storedBytes i = 0) : Completes i s (s.setVFlag x b c).complete := by
  refine .of_regs (fun r hr => ?_) hb rfl
  show (s.setVFlag x b c).getV r = s.getV r
  rw [State.getV_setVFlag, if_neg (by rintro rfl; exact hr hf), if_neg (by rintro rfl; exact hr hx)]

/-- A transfer of control completes. -/
theorem Completes.of_pc {i : Instr} {s u : State} (hp : writesPc i = true)
    (hpc : u.pc = s.pc ∨ u.pc = s.pc + 2#16 ∨ u.pc.toNat ≤ 0x10FE) (hb : storedBytes i = 0)
    (hu : u = { s with pc := u.pc, status := .ok }) : Completes i s u := by
  rw [hu] at hpc ⊢
  exact { nop s hb with
    pc := fun h => absurd (hp.symm.trans h) (by simp)
    pcValue := hpc.imp_right fun h => h.imp_right .inl }

/-- A skip completes. -/
theorem Completes.of_skipIf {i : Instr} {s : State} (c : Bool) (hp : writesPc i = true) (hb : storedBytes i = 0) :
    Completes i s (s.skipIf c).complete := by
  cases c
  · exact .of_pc hp (.inl rfl) hb rfl
  · exact .of_pc hp (.inr (.inl rfl)) hb rfl

/-- A store of bytes that all pass their checks completes. -/
theorem Completes.of_storeBytes {i : Instr} {s : State} (bs : List Byte) (hb : bs.length = storedBytes i)
    (hc : firstFault (writeFault s.params) s.indexAddr bs.length = none) :
    Completes i s (s.storeBytes s.indexAddr bs).complete where
  regs := fun r _ => State.getV_congr (by simp) r
  index := .inl (by simp)
  pc := fun _ => by simp
  pcValue := .inl (by simp)
  stack := .inl ⟨by simp, by simp⟩
  dt := .inl (by simp)
  st := .inl (by simp)
  display := .inl (by simp)
  keys := by simp
  latchKey := by simp
  latchValid := .inl (by simp)
  fault := by simp
  memory := ⟨bs, rfl, hb, firstFault_eq_none_iff.mp hc⟩
  params := by simp
  supply := .inl ⟨by simp, by simp⟩

/-- The kind of a failed data check. -/
theorem kind_of_readFault {base n : Nat} {kind : FatalKind} (h : firstFault readFault base n = some kind) :
    kind = .memBounds := by
  obtain ⟨k, -, hk, -⟩ := firstFault_eq_some h
  unfold readFault at hk
  split at hk <;> simp_all

theorem kind_of_writeFault {p : Params} {base n : Nat} {kind : FatalKind}
    (h : firstFault (writeFault p) base n = some kind) : kind = .memBounds ∨ kind = .fontWrite := by
  obtain ⟨k, -, hk, -⟩ := firstFault_eq_some h
  unfold writeFault at hk
  split at hk
  · simp_all
  · split at hk <;> simp_all

/-- Everything an instruction can do: complete, or raise a kind it can raise and change nothing else. -/
theorem exec_cases {i : Instr} {s u : State} (h : exec i s = .next u) :
    Completes i s u ∨ ∃ kind, u = s.raiseIn kind i ∧ FaultRecord.Legal ⟨kind, s.ia, some (encode i)⟩ := by
  cases i <;> (replace h := (Host.Outcome.next.inj h).symm)
  case cls => subst h; exact .inl { Completes.nop s rfl with display := .inr (.inl rfl) }
  case ret =>
    rcases pop_cases s with ⟨_, hp⟩ | ⟨h0, hp⟩ <;> simp only [hp] at h <;> subst h
    · exact .inr ⟨_, rfl, rfl⟩
    · exact .inl { Completes.nop s rfl with
        pc := by simp [writesPc]
        pcValue := .inr (.inr (.inr (.inl ⟨rfl, h0⟩)))
        stack := .inr (.inr ⟨rfl, Nat.sub_add_cancel h0, rfl⟩) }
  case call nnn =>
    rcases push_cases s s.pc with ⟨_, hp⟩ | ⟨h0, hp⟩ <;> simp only [hp] at h <;> subst h
    · exact .inr ⟨_, rfl, nnn, rfl⟩
    · exact .inl { Completes.nop s rfl with
        pc := by simp [writesPc]
        pcValue := .inr (.inr (.inl (by simp [zextAddr]; omega)))
        stack := .inr (.inl ⟨⟨nnn, rfl⟩, h0, rfl, rfl⟩) }
  case jp nnn => subst h; exact .inl (.of_pc rfl (.inr (.inr (by simp [zextAddr]; omega))) rfl rfl)
  case jpV0 nnn =>
    subst h
    refine .inl (.of_pc rfl (.inr (.inr ?_)) rfl rfl)
    have := nnn.isLt; have := (s.getV 0x0#4).isLt
    simp [zextAddr, zextByte]; omega
  case seVxNn => subst h; exact .inl (.of_skipIf _ rfl rfl)
  case sneVxNn => subst h; exact .inl (.of_skipIf _ rfl rfl)
  case seVxVy => subst h; exact .inl (.of_skipIf _ rfl rfl)
  case sneVxVy => subst h; exact .inl (.of_skipIf _ rfl rfl)
  case skp => subst h; exact .inl (.of_skipIf _ rfl rfl)
  case sknp => subst h; exact .inl (.of_skipIf _ rfl rfl)
  case rnd x nn =>
    subst h
    exact .inl { Completes.nop s rfl with
      regs := fun r hr => State.getV_setV_other s _ (by rintro rfl; exact hr List.mem_cons_self)
      supply := .inr ⟨x, nn, rfl⟩ }
  case drw x y n =>
    rcases checked_cases s (firstFault readFault s.indexAddr n.toNat) (.drw x y n) (s.draw x y n).complete
      with ⟨kind, hk, hp⟩ | ⟨-, hp⟩
    · exact .inr ⟨kind, h.trans hp, by rw [kind_of_readFault hk]; exact .inl ⟨x, y, n, rfl⟩⟩
    · replace h := h.trans hp
      subst h
      exact .inl { Completes.nop s rfl with
        regs := fun r hr => State.getV_setV_other _ _ (by rintro rfl; exact hr List.mem_cons_self)
        display := .inr (.inr ⟨x, y, n, rfl⟩) }
  case ldVxK x =>
    split at h <;> subst h
    · exact .inl { Completes.nop s rfl with
        regs := fun r hr => State.getV_setV_other s _ (by rintro rfl; exact hr List.mem_cons_self)
        latchValid := .inr ⟨rfl, x, rfl⟩ }
    · exact .inl { Completes.nop s rfl with
        pc := by simp [writesPc]
        pcValue := .inr (.inr (.inr (.inr rfl))) }
  case ldDtVx x => subst h; exact .inl { Completes.nop s rfl with dt := .inr ⟨x, rfl, rfl⟩ }
  case ldStVx x => subst h; exact .inl { Completes.nop s rfl with st := .inr ⟨x, rfl, rfl⟩ }
  case ldINnn nnn => subst h; exact .inl { Completes.nop s rfl with index := .inr (.inl ⟨nnn, rfl⟩) }
  case addIVx x => subst h; exact .inl { Completes.nop s rfl with index := .inr (.inr (.inl ⟨x, rfl⟩)) }
  case ldFVx x => subst h; exact .inl { Completes.nop s rfl with index := .inr (.inr (.inr ⟨x, rfl⟩)) }
  case ldBVx x =>
    rcases checked_cases s (firstFault (writeFault s.params) s.indexAddr 3) (.ldBVx x)
        (s.storeBytes s.indexAddr (decimalDigits (s.getV x))).complete
      with ⟨kind, hk, hp⟩ | ⟨hk, hp⟩
    · exact .inr ⟨kind, h.trans hp, by
        rcases kind_of_writeFault hk with rfl | rfl
        exacts [.inr (.inl ⟨x, rfl⟩), .inl ⟨x, rfl⟩]⟩
    · exact .inl (h.trans hp ▸ .of_storeBytes (decimalDigits (s.getV x)) rfl hk)
  case ldMemVx x =>
    rcases checked_cases s (firstFault (writeFault s.params) s.indexAddr (regCount x)) (.ldMemVx x)
        (s.storeBytes s.indexAddr (s.getRegs (regCount x))).complete
      with ⟨kind, hk, hp⟩ | ⟨hk, hp⟩
    · exact .inr ⟨kind, h.trans hp, by
        rcases kind_of_writeFault hk with rfl | rfl
        exacts [.inr (.inr (.inl ⟨x, rfl⟩)), .inr ⟨x, rfl⟩]⟩
    · exact .inl (h.trans hp ▸ .of_storeBytes (s.getRegs (regCount x)) (s.length_getRegs _)
        (by rw [State.length_getRegs]; exact hk))
  case ldVxMem x =>
    rcases checked_cases s (firstFault readFault s.indexAddr (regCount x)) (.ldVxMem x)
        (s.setRegs 0 (s.loadBytes s.indexAddr (regCount x))).complete
      with ⟨kind, hk, hp⟩ | ⟨hk, hp⟩
    · exact .inr ⟨kind, h.trans hp, by rw [kind_of_readFault hk]; exact .inr (.inr (.inr ⟨x, rfl⟩))⟩
    · refine .inl (h.trans hp ▸ .of_regs (fun r hr => ?_) rfl (by rw [State.setRegs_eq]; rfl))
      show (s.setRegs 0 (s.loadBytes s.indexAddr (regCount x))).getV r = s.getV r
      rw [State.getV_setRegs _ _ _ (by simp [regCount]; omega), if_neg]
      simp only [writtenRegs, List.mem_map, List.mem_range, not_exists, not_and] at hr
      intro hc
      exact hr r.toNat (by simpa using hc.2) (by simp)
  case addVxVy => subst h; exact .inl (.of_setVFlag _ _ _ (by simp [writtenRegs]) (by simp [writtenRegs]) rfl)
  case sub => subst h; exact .inl (.of_setVFlag _ _ _ (by simp [writtenRegs]) (by simp [writtenRegs]) rfl)
  case shr => subst h; exact .inl (.of_setVFlag _ _ _ (by simp [writtenRegs]) (by simp [writtenRegs]) rfl)
  case subn => subst h; exact .inl (.of_setVFlag _ _ _ (by simp [writtenRegs]) (by simp [writtenRegs]) rfl)
  case shl => subst h; exact .inl (.of_setVFlag _ _ _ (by simp [writtenRegs]) (by simp [writtenRegs]) rfl)
  all_goals (subst h; exact .inl (.of_setV _ _ List.mem_cons_self rfl))

end Sys2Proof.Machine
end

