-- ==== Sys2Proof/Laws/Frames.lean ====
section
/-! SUPPORT. Building the frames of Safety.lean from equal fields. -/

namespace Sys2Proof.Machine

variable {s t : State}

theorem SameRegsExcept.of_eq (h : t.v = s.v) (W : List Reg) : SameRegsExcept W s t := fun r _ => State.getV_congr h r

theorem SameMemory.of_eq (hm : t.mem = s.mem) (hp : t.params = s.params) : SameMemory s t :=
  fun a => State.memRead_congr hm hp a

theorem SameStack.of_eq (hsp : t.sp = s.sp) (hst : t.stack = s.stack) : SameStack s t :=
  ⟨hsp, fun j => State.slot_congr hst j⟩

theorem SameDisplay.of_eq (h : t.fb = s.fb) : SameDisplay s t := fun x y => State.pixel_congr h x y

theorem SameInput.of_eq (hk : t.key = s.key) (hv : t.latchValid = s.latchValid) (hl : t.latchKey = s.latchKey) :
    SameInput s t := ⟨fun k => State.keyDown_congr hk k, hv, hl⟩

/-- Equal fields make equal rests. -/
theorem SameRest.of_eq (hsp : t.sp = s.sp) (hstack : t.stack = s.stack) (hdt : t.dt = s.dt) (hst : t.st = s.st)
    (hfb : t.fb = s.fb) (hk : t.key = s.key) (hv : t.latchValid = s.latchValid) (hl : t.latchKey = s.latchKey)
    (hf : t.fault = s.fault) (hp : t.params = s.params) (hr : t.rnd = s.rnd) (hd : t.rndDraws = s.rndDraws) :
    SameRest s t :=
  ⟨.of_eq hsp hstack, ⟨hdt, hst⟩, .of_eq hfb, .of_eq hk hv hl, hf, hp, hr, hd⟩

/-- A register write touches only its register. -/
theorem SameRegsExcept.of_setV {u : State} {x : Reg} {b : Byte} (h : t.v = (u.setV x b).v) (hu : u.v = s.v) :
    SameRegsExcept [x] s t := by
  intro r hr
  rw [State.getV_congr h, State.getV_setV_other u b (by simpa using hr), State.getV_congr hu]

/-- A register and flag write touches only its register and VF. -/
theorem SameRegsExcept.of_setVFlag {u : State} {x : Reg} {b : Byte} {c : Bool} (h : t.v = (u.setVFlag x b c).v)
    (hu : u.v = s.v) : SameRegsExcept [x, VF] s t := by
  intro r hr
  simp only [List.mem_cons, List.not_mem_nil, or_false, not_or] at hr
  rw [State.getV_congr h, State.getV_setVFlag, if_neg hr.2, if_neg hr.1, State.getV_congr hu]

/-- Raising in an instruction leaves all else as it was. -/
theorem raisedIn_raiseIn (s : State) (kind : FatalKind) (i : Instr) : RaisedIn s (s.raiseIn kind i) kind i where
  regs := .of_eq rfl []
  index := rfl
  pc := rfl
  memory := .of_eq rfl rfl
  stack := .of_eq rfl rfl
  timers := ⟨rfl, rfl⟩
  display := .of_eq rfl
  input := .of_eq rfl rfl rfl
  supply := ⟨rfl, rfl, rfl⟩
  fault := rfl
  status := rfl

end Sys2Proof.Machine
end

