-- ==== Sys2Proof/Laws/PerInstr.lean ====
section
/-! SUPPORT. The statements made of every instruction, one lemma per constructor (LAWS.json). `RowMatch`: the encoding
of an instruction fits its row of 30_encoding.md R104, `encode i & mask = match`. -/

namespace Sys2Proof.Laws

/-- A word of format `nnn` masked to its group. -/
theorem mask_nnn (g : Nibble) (a : Addr12) : (g ++ a) &&& 0xF000#16 = g ++ 0x000#12 := by
  rw [show (0xF000#16 : Word) = 0xF#4 ++ 0x000#12 by rfl, BitVec.and_append]
  congr 1
  · exact BitVec.and_allOnes
  · exact BitVec.and_zero

/-- A word of format `xnn` masked to its group. -/
theorem mask_xnn (g : Nibble) (x : Reg) (b : Byte) : (g ++ x ++ b) &&& 0xF000#16 = g ++ 0x0#4 ++ 0x00#8 := by
  rw [show (0xF000#16 : Word) = 0xF#4 ++ 0x0#4 ++ 0x00#8 by rfl, BitVec.and_append, BitVec.and_append]
  congr 1
  · congr 1
    · exact BitVec.and_allOnes
    · exact BitVec.and_zero
  · exact BitVec.and_zero

/-- A word of format `xyn_sub` masked to its group and sub-operation. -/
theorem mask_xyn_sub (g : Nibble) (x y : Reg) (n : Nibble) :
    (g ++ x ++ y ++ n) &&& 0xF00F#16 = g ++ 0x0#4 ++ 0x0#4 ++ n := by
  rw [show (0xF00F#16 : Word) = 0xF#4 ++ 0x0#4 ++ 0x0#4 ++ 0xF#4 by rfl, BitVec.and_append, BitVec.and_append,
    BitVec.and_append]
  congr 1
  · congr 1
    · congr 1
      · exact BitVec.and_allOnes
      · exact BitVec.and_zero
    · exact BitVec.and_zero
  · exact BitVec.and_allOnes

/-- A word of format `xyn` masked to its group. -/
theorem mask_xyn (g : Nibble) (x y : Reg) (n : Nibble) :
    (g ++ x ++ y ++ n) &&& 0xF000#16 = g ++ 0x0#4 ++ 0x0#4 ++ 0x0#4 := by
  rw [show (0xF000#16 : Word) = 0xF#4 ++ 0x0#4 ++ 0x0#4 ++ 0x0#4 by rfl, BitVec.and_append, BitVec.and_append,
    BitVec.and_append]
  congr 1
  · congr 1
    · congr 1
      · exact BitVec.and_allOnes
      · exact BitVec.and_zero
    · exact BitVec.and_zero
  · exact BitVec.and_zero

/-- A word of format `x_sub` masked to its group and sub-operation byte. -/
theorem mask_x_sub (g : Nibble) (x : Reg) (b : Byte) : (g ++ x ++ b) &&& 0xF0FF#16 = g ++ 0x0#4 ++ b := by
  rw [show (0xF0FF#16 : Word) = 0xF#4 ++ 0x0#4 ++ 0xFF#8 by rfl, BitVec.and_append, BitVec.and_append]
  congr 1
  · congr 1
    · exact BitVec.and_allOnes
    · exact BitVec.and_zero
  · exact BitVec.and_allOnes

namespace RowMatch

/-- The encoding of the instruction fits its row (R104). -/
def Statement (i : Instr) : Prop := encode i &&& (opcodeRow i).mask = (opcodeRow i).pattern

theorem cls : Statement .cls := rfl
theorem ret : Statement .ret := rfl
theorem jp (nnn : Addr12) : Statement (.jp nnn) := (mask_nnn 0x1#4 nnn).trans rfl
theorem call (nnn : Addr12) : Statement (.call nnn) := (mask_nnn 0x2#4 nnn).trans rfl
theorem seVxNn (x : Reg) (nn : Byte) : Statement (.seVxNn x nn) := (mask_xnn 0x3#4 x nn).trans rfl
theorem sneVxNn (x : Reg) (nn : Byte) : Statement (.sneVxNn x nn) := (mask_xnn 0x4#4 x nn).trans rfl
theorem seVxVy (x : Reg) (y : Reg) : Statement (.seVxVy x y) := (mask_xyn_sub 0x5#4 x y 0x0#4).trans rfl
theorem ldVxNn (x : Reg) (nn : Byte) : Statement (.ldVxNn x nn) := (mask_xnn 0x6#4 x nn).trans rfl
theorem addVxNn (x : Reg) (nn : Byte) : Statement (.addVxNn x nn) := (mask_xnn 0x7#4 x nn).trans rfl
theorem ldVxVy (x : Reg) (y : Reg) : Statement (.ldVxVy x y) := (mask_xyn_sub 0x8#4 x y 0x0#4).trans rfl
theorem or (x : Reg) (y : Reg) : Statement (.or x y) := (mask_xyn_sub 0x8#4 x y 0x1#4).trans rfl
theorem and (x : Reg) (y : Reg) : Statement (.and x y) := (mask_xyn_sub 0x8#4 x y 0x2#4).trans rfl
theorem xor (x : Reg) (y : Reg) : Statement (.xor x y) := (mask_xyn_sub 0x8#4 x y 0x3#4).trans rfl
theorem addVxVy (x : Reg) (y : Reg) : Statement (.addVxVy x y) := (mask_xyn_sub 0x8#4 x y 0x4#4).trans rfl
theorem sub (x : Reg) (y : Reg) : Statement (.sub x y) := (mask_xyn_sub 0x8#4 x y 0x5#4).trans rfl
theorem shr (x : Reg) (y : Reg) : Statement (.shr x y) := (mask_xyn_sub 0x8#4 x y 0x6#4).trans rfl
theorem subn (x : Reg) (y : Reg) : Statement (.subn x y) := (mask_xyn_sub 0x8#4 x y 0x7#4).trans rfl
theorem shl (x : Reg) (y : Reg) : Statement (.shl x y) := (mask_xyn_sub 0x8#4 x y 0xE#4).trans rfl
theorem sneVxVy (x : Reg) (y : Reg) : Statement (.sneVxVy x y) := (mask_xyn_sub 0x9#4 x y 0x0#4).trans rfl
theorem ldINnn (nnn : Addr12) : Statement (.ldINnn nnn) := (mask_nnn 0xA#4 nnn).trans rfl
theorem jpV0 (nnn : Addr12) : Statement (.jpV0 nnn) := (mask_nnn 0xB#4 nnn).trans rfl
theorem rnd (x : Reg) (nn : Byte) : Statement (.rnd x nn) := (mask_xnn 0xC#4 x nn).trans rfl
theorem drw (x : Reg) (y : Reg) (n : Nibble) : Statement (.drw x y n) := (mask_xyn 0xD#4 x y n).trans rfl
theorem skp (x : Reg) : Statement (.skp x) := (mask_x_sub 0xE#4 x 0x9E#8).trans rfl
theorem sknp (x : Reg) : Statement (.sknp x) := (mask_x_sub 0xE#4 x 0xA1#8).trans rfl
theorem ldVxDt (x : Reg) : Statement (.ldVxDt x) := (mask_x_sub 0xF#4 x 0x07#8).trans rfl
theorem ldVxK (x : Reg) : Statement (.ldVxK x) := (mask_x_sub 0xF#4 x 0x0A#8).trans rfl
theorem ldDtVx (x : Reg) : Statement (.ldDtVx x) := (mask_x_sub 0xF#4 x 0x15#8).trans rfl
theorem ldStVx (x : Reg) : Statement (.ldStVx x) := (mask_x_sub 0xF#4 x 0x18#8).trans rfl
theorem addIVx (x : Reg) : Statement (.addIVx x) := (mask_x_sub 0xF#4 x 0x1E#8).trans rfl
theorem ldFVx (x : Reg) : Statement (.ldFVx x) := (mask_x_sub 0xF#4 x 0x29#8).trans rfl
theorem ldBVx (x : Reg) : Statement (.ldBVx x) := (mask_x_sub 0xF#4 x 0x33#8).trans rfl
theorem ldMemVx (x : Reg) : Statement (.ldMemVx x) := (mask_x_sub 0xF#4 x 0x55#8).trans rfl
theorem ldVxMem (x : Reg) : Statement (.ldVxMem x) := (mask_x_sub 0xF#4 x 0x65#8).trans rfl

end RowMatch

end Sys2Proof.Laws
end

