-- ==== Sys2Proof/Tests/Slice0.lean ====
section
/-! SUPPORT. The model's own tests: the parameter checks refuse ill-formed parameters; words written out from
30_encoding.md R104 decode; single steps give what 95_test_vectors.md says (the vector's id stands in the docstring); and
for every obligation with hypotheses a concrete state and operands meet them all. -/

namespace Sys2Proof.Tests

open Sys2Proof.Machine

/-! ### The states tested -/

/-- Parameters for tests: a font at 0x50 (any place below 0x1B1 would do) with the glyphs of 93_implementation_defined.md
G6, and the smallest stack R8 allows. -/
def params : Params := ⟨0x50, Config.conventionalGlyphs, 16, 0x0200#16, false⟩

/-- The start state of 95_test_vectors.md: after `INIT(0x200)`, with `rnd = 0`. -/
def base : State := { State.init params 0x0200#16 with rnd := 0#8 }

/-- A state with some registers set. -/
def withRegs (l : List (Reg × Byte)) (s : State) : State := l.foldl (fun t r => t.setV r.1 r.2) s

/-- A state with `I` set and some bytes from 0x300 on. -/
def withBytes (i : Word) (bs : List Byte) (s : State) : State := { s.storeBytes 0x300 bs with ireg := i }

/-- The word stands at `pc`, and one step runs. -/
def run1 (w : Word) (s : State) : State :=
  match step (s.placeWord w) with
  | .next t => t
  | .fault _ | .refused _ => s

/-- A state with `LATCH_CLEAR_ON_STEP = true`. -/
def clearing (s : State) : State := { s with params := { s.params with latchClearOnStep := true } }

/-- A pixel turned on. -/
def withPixel (x y : Nat) (s : State) : State := { s with fb := flipPixel s.fb x y }

/-! ### The parameter checks (00_scope.md R8) -/

theorem test_params_wf : params.wf = true := by decide
/-- The font may end exactly at 0x200. -/
theorem test_params_wf_highest_font : Params.wf { params with fontOffset := 0x1B0 } = true := by decide
theorem test_ill_formed_font_offset : Params.wf { params with fontOffset := 0x1B1 } = false := by decide
theorem test_ill_formed_glyphs : Params.wf { params with fontGlyphs := params.fontGlyphs.drop 1 } = false := by decide
theorem test_ill_formed_stack : Params.wf { params with stackCapacity := 15 } = false := by decide
theorem test_ill_formed_load_offset : Params.wf { params with loadOffset := 0x0FFF#16 } = false := by decide

/-! ### Decoding: every constructor, from the patterns of 30_encoding.md R104 -/

theorem test_decode_control :
    decode 0x00EE#16 = .instr .ret ∧ decode 0x1234#16 = .instr (.jp 0x234) ∧ decode 0x2210#16 = .instr (.call 0x210) ∧
    decode 0x3F01#16 = .instr (.seVxNn 0xF 0x01) ∧ decode 0x4205#16 = .instr (.sneVxNn 0x2 0x05) ∧
    decode 0x5340#16 = .instr (.seVxVy 0x3 0x4) ∧ decode 0x9340#16 = .instr (.sneVxVy 0x3 0x4) ∧
    decode 0xBF01#16 = .instr (.jpV0 0xF01) := by decide
theorem test_decode_alu :
    decode 0x6A7B#16 = .instr (.ldVxNn 0xA 0x7B) ∧ decode 0x7003#16 = .instr (.addVxNn 0x0 0x03) ∧
    decode 0x8120#16 = .instr (.ldVxVy 0x1 0x2) ∧ decode 0x8121#16 = .instr (.or 0x1 0x2) ∧
    decode 0x8122#16 = .instr (.and 0x1 0x2) ∧ decode 0x8123#16 = .instr (.xor 0x1 0x2) ∧
    decode 0x8AB4#16 = .instr (.addVxVy 0xA 0xB) ∧ decode 0x8AB5#16 = .instr (.sub 0xA 0xB) ∧
    decode 0x8AB6#16 = .instr (.shr 0xA 0xB) ∧ decode 0x8AB7#16 = .instr (.subn 0xA 0xB) ∧
    decode 0x8ABE#16 = .instr (.shl 0xA 0xB) ∧ decode 0xC30F#16 = .instr (.rnd 0x3 0x0F) := by decide
theorem test_decode_index_memory :
    decode 0xA300#16 = .instr (.ldINnn 0x300) ∧ decode 0xF51E#16 = .instr (.addIVx 0x5) ∧
    decode 0xF629#16 = .instr (.ldFVx 0x6) ∧ decode 0xF733#16 = .instr (.ldBVx 0x7) ∧
    decode 0xF855#16 = .instr (.ldMemVx 0x8) ∧ decode 0xF965#16 = .instr (.ldVxMem 0x9) := by decide
theorem test_decode_display :
    decode 0x00E0#16 = .instr .cls ∧ decode 0xD125#16 = .instr (.drw 0x1 0x2 0x5) := by decide
theorem test_decode_input :
    decode 0xE19E#16 = .instr (.skp 0x1) ∧ decode 0xE2A1#16 = .instr (.sknp 0x2) ∧
    decode 0xF30A#16 = .instr (.ldVxK 0x3) := by decide
theorem test_decode_timers :
    decode 0xF207#16 = .instr (.ldVxDt 0x2) ∧ decode 0xFC15#16 = .instr (.ldDtVx 0xC) ∧
    decode 0xF018#16 = .instr (.ldStVx 0x0) := by decide
/-- Vectors D3 to D13: a word next to a row is a decode error. -/
theorem test_decode_errors :
    [0x0000#16, 0x00E1#16, 0x0123#16, 0x5121#16, 0x8008#16, 0x800F#16, 0x9AB1#16, 0xE000#16, 0xE19F#16, 0xF0FF#16,
      0xF100#16, 0xF00B#16].all (fun w => decode w == .decodeError w) = true := by decide
/-- The first byte is the high one (20_memory.md R78), and exactly two are consumed (R100). -/
theorem test_decode_bytes :
    decodeBytes [0x63, 0x2A, 0x00] = .word (.instr (.ldVxNn 0x3 0x2A)) [0x00] ∧ decodeBytes [0x63] = .truncated := by
  decide
theorem test_decode_table_word :
    decodeTableWord 16 0xF255 = some (.ldMemVx 0x2) ∧ decodeTableWord 16 0x5121 = none := by decide
/-- The worked encodings of 30_encoding.md R111, the other way round. -/
theorem test_encode : encode (.addVxVy 0x3 0x4) = 0x8344#16 ∧ encode (.drw 0x0 0x1 0x5) = 0xD015#16 := by decide

/-! ### Fetch and step status -/

/-- From reset, a placed word is the first instruction to run. -/
theorem test_reset_runs_placed_word :
    (match step (State.reset.withFetchWord 16 0x6A7B) with
      | .next t => (t.getV 0xA#4, t.pc, t.status) | _ => (0#8, 0#16, .awaitKey)) = (0x7B#8, 0x0202#16, Status.ok) := by
  decide
/-- D1: the last word of memory runs, and the fetch after it faults. -/
theorem test_D1_last_word :
    (run1 0x00E0#16 { base with pc := 0x0FFE#16 }).pc = 0x1000#16 ∧
    (match step { base with pc := 0x1000#16 } with | .next t => (t.fault, t.pc) | _ => (none, 0#16)) =
      (some ⟨.fetchBounds, 0x1000#16, none⟩, 0x1000#16) := by decide
/-- D2: no word can be fetched at 0xFFF. -/
theorem test_D2_fetch_bounds :
    (match step { base with pc := 0x0FFF#16 } with | .next t => t.status | _ => .ok) =
      .fatal ⟨.fetchBounds, 0x0FFF#16, none⟩ := by decide
/-- S11. -/
theorem test_S11_decode_error :
    (run1 0x0123#16 base).status = .decodeError 0x0123#16 ∧ (run1 0x0123#16 base).pc = 0x0202#16 := by decide

/-! ### Control flow -/

/-- C1. -/
theorem test_C1_underflow :
    (run1 0x00EE#16 base).status = .fatal ⟨.stackUnderflow, 0x0200#16, some 0x00EE#16⟩ ∧
    (run1 0x00EE#16 base).pc = 0x0200#16 := by decide
/-- C2: the slot is kept. -/
theorem test_C2_ret :
    let t := run1 0x00EE#16 { base with sp := 1, stack := base.stack.set 0 0x0206#16 }
    t.pc = 0x0206#16 ∧ t.sp = 0 ∧ t.slot 0 = 0x0206#16 := by decide
/-- C3. -/
theorem test_C3_jp : (run1 0x1234#16 base).pc = 0x0234#16 := by decide
/-- C6. -/
theorem test_C6_call :
    let t := run1 0x2210#16 { base with pc := 0x0204#16 }
    t.slot 0 = 0x0206#16 ∧ t.sp = 1 ∧ t.pc = 0x0210#16 := by decide
/-- C7, with the test's capacity. -/
theorem test_C7_overflow :
    let t := run1 0x2300#16 { base with sp := 16 }
    t.status = .fatal ⟨.stackOverflow, 0x0200#16, some 0x2300#16⟩ ∧ t.sp = 16 ∧ t.pc = 0x0200#16 := by decide
/-- C8, C9. -/
theorem test_C8_se :
    (run1 0x3100#16 base).pc = 0x0204#16 ∧ (run1 0x3100#16 (withRegs [(0x1, 1)] base)).pc = 0x0202#16 := by decide
/-- C11, C12. -/
theorem test_C11_sne :
    (run1 0x4205#16 (withRegs [(0x2, 5)] base)).pc = 0x0202#16 ∧
    (run1 0x4206#16 (withRegs [(0x2, 5)] base)).pc = 0x0204#16 := by decide
/-- C13, C14. -/
theorem test_C14_se_regs :
    (run1 0x5330#16 base).pc = 0x0204#16 ∧ (run1 0x5340#16 (withRegs [(0x3, 7), (0x4, 8)] base)).pc = 0x0202#16 := by
  decide
/-- C15, C16. -/
theorem test_C16_sne_regs :
    (run1 0x9330#16 base).pc = 0x0202#16 ∧ (run1 0x9340#16 (withRegs [(0x3, 7), (0x4, 8)] base)).pc = 0x0204#16 := by
  decide
/-- C17, C18: no reduction modulo 4096. -/
theorem test_C18_jp_v0 :
    (run1 0xB300#16 (withRegs [(0x0, 4)] base)).pc = 0x0304#16 ∧
    (run1 0xBF01#16 (withRegs [(0x0, 0xFF)] base)).pc = 0x1000#16 := by decide

/-! ### The ALU -/

/-- A1. -/
theorem test_A1_ld : (run1 0x6A7B#16 base).getV 0xA = 0x7B#8 := by decide
/-- A2, A3. -/
theorem test_A2_add_nn :
    (run1 0x7003#16 (withRegs [(0x0, 0xFE)] base)).getV 0x0 = 0x01#8 ∧
    (run1 0x7003#16 (withRegs [(0x0, 0xFE)] base)).getV VF = 0x00#8 ∧
    (run1 0x7FFF#16 (withRegs [(VF, 1)] base)).getV VF = 0x00#8 := by decide
/-- A4. -/
theorem test_A4_ld_regs : (run1 0x8010#16 (withRegs [(0x1, 9)] base)).getV 0x0 = 9#8 := by decide
/-- A5, A6. -/
theorem test_A5_or :
    (run1 0x8011#16 (withRegs [(0x0, 0x0F), (0x1, 0xF0), (VF, 0x55)] base)).getV 0x0 = 0xFF#8 ∧
    (run1 0x8011#16 (withRegs [(0x0, 0x0F), (0x1, 0xF0), (VF, 0x55)] base)).getV VF = 0x55#8 ∧
    (run1 0x8F11#16 (withRegs [(VF, 0x0F), (0x1, 0xF0)] base)).getV VF = 0xFF#8 := by decide
/-- A7. -/
theorem test_A7_and : (run1 0x8012#16 (withRegs [(0x0, 0x3C), (0x1, 0x0F)] base)).getV 0x0 = 0x0C#8 := by decide
/-- A8. -/
theorem test_A8_xor : (run1 0x8013#16 (withRegs [(0x0, 0x3C), (0x1, 0x0F)] base)).getV 0x0 = 0x33#8 := by decide
/-- S2, A14: the carry, and the carry over the sum. -/
theorem test_A14_add :
    (run1 0x8014#16 (withRegs [(0x0, 250), (0x1, 10)] base)).getV 0x0 = 4#8 ∧
    (run1 0x8014#16 (withRegs [(0x0, 250), (0x1, 10)] base)).getV VF = 1#8 ∧
    (run1 0x8F14#16 (withRegs [(VF, 200), (0x1, 100)] base)).getV VF = 1#8 := by decide
/-- A15: the sum uses the old VF. -/
theorem test_A15_add_vf :
    (run1 0x80F4#16 (withRegs [(0x0, 5), (VF, 7)] base)).getV 0x0 = 12#8 ∧
    (run1 0x80F4#16 (withRegs [(0x0, 5), (VF, 7)] base)).getV VF = 0#8 := by decide
/-- S4, A9: a borrow, and equality. -/
theorem test_S4_sub :
    (run1 0x8015#16 (withRegs [(0x0, 10), (0x1, 20)] base)).getV 0x0 = 246#8 ∧
    (run1 0x8015#16 (withRegs [(0x0, 10), (0x1, 20)] base)).getV VF = 0#8 ∧
    (run1 0x8335#16 (withRegs [(0x3, 9)] base)).getV VF = 1#8 := by decide
/-- A18, A19. -/
theorem test_A18_subn :
    (run1 0x8017#16 (withRegs [(0x0, 20), (0x1, 10)] base)).getV 0x0 = 246#8 ∧
    (run1 0x8017#16 (withRegs [(0x0, 20), (0x1, 10)] base)).getV VF = 0#8 ∧
    (run1 0x8017#16 (withRegs [(0x0, 10), (0x1, 20)] base)).getV 0x0 = 10#8 := by decide
/-- A22, A24. -/
theorem test_A22_shr :
    (run1 0x8016#16 (withRegs [(0x0, 0xFF)] base)).getV 0x0 = 0x7F#8 ∧
    (run1 0x8016#16 (withRegs [(0x0, 0xFF)] base)).getV VF = 1#8 ∧
    (run1 0x8F06#16 (withRegs [(VF, 0x81)] base)).getV VF = 1#8 := by decide
/-- A25, A28. -/
theorem test_A25_shl :
    (run1 0x800E#16 (withRegs [(0x0, 0x81)] base)).getV 0x0 = 0x02#8 ∧
    (run1 0x800E#16 (withRegs [(0x0, 0x81)] base)).getV VF = 1#8 ∧
    (run1 0x8F0E#16 (withRegs [(VF, 0x40)] base)).getV VF = 0#8 := by decide
/-- A30. -/
theorem test_A30_rnd : (run1 0xC30F#16 { base with rnd := 0xA7#8 }).getV 0x3 = 0x07#8 := by decide

/-! ### Index register and memory -/

/-- M1. -/
theorem test_M1_ld_i : (run1 0xA300#16 base).ireg = 0x0300#16 := by decide
/-- M3, M4. -/
theorem test_M3_add_i :
    (run1 0xF01E#16 (withRegs [(0x0, 1), (VF, 9)] { base with ireg := 0x0FFF#16 })).ireg = 0x1000#16 ∧
    (run1 0xF01E#16 (withRegs [(0x0, 1), (VF, 9)] { base with ireg := 0x0FFF#16 })).getV VF = 9#8 ∧
    (run1 0xF01E#16 (withRegs [(0x0, 1)] { base with ireg := 0xFFFF#16 })).ireg = 0x0000#16 := by decide
/-- S9, M7. -/
theorem test_M7_glyph :
    (run1 0xF029#16 (withRegs [(0x0, 0x0A)] base)).ireg = 0x0050#16 + 50#16 ∧
    (run1 0xF029#16 (withRegs [(0x0, 0x1A)] base)).ireg = 0x0050#16 + 50#16 := by decide
/-- S8. -/
theorem test_S8_bcd :
    (run1 0xF033#16 (withRegs [(0x0, 231)] { base with ireg := 0x0300#16 })).loadBytes 0x300 3 = [2, 3, 1] := by decide
/-- M12, M13. -/
theorem test_M12_bcd_faults :
    (run1 0xF033#16 (withRegs [(0x0, 1)] { base with ireg := 0x0FFE#16 })).status =
      .fatal ⟨.memBounds, 0x0200#16, some 0xF033#16⟩ ∧
    (run1 0xF033#16 { base with ireg := 0x0050#16 + 78#16 }).status =
      .fatal ⟨.fontWrite, 0x0200#16, some 0xF033#16⟩ := by decide
/-- M14. -/
theorem test_M14_store :
    let t := run1 0xF255#16 (withRegs [(0x0, 1), (0x1, 2), (0x2, 3), (0x3, 4)] { base with ireg := 0x0300#16 })
    t.loadBytes 0x300 4 = [1, 2, 3, 0] ∧ t.ireg = 0x0300#16 := by decide
/-- M15: checks come before writes. -/
theorem test_M15_store_fault :
    let t := run1 0xF155#16 (withRegs [(0x0, 0xAA), (0x1, 0xBB)] { base with ireg := 0x0FFF#16, pc := 0x0300#16 })
    t.status = .fatal ⟨.memBounds, 0x0300#16, some 0xF155#16⟩ ∧ t.memRead 0xFFF = 0#8 ∧ t.pc = 0x0300#16 := by decide
/-- M18. -/
theorem test_M18_load :
    (run1 0xF265#16 (withBytes 0x0300#16 [1, 2, 3, 4] base)).getRegs 4 = [1, 2, 3, 0] := by decide
/-- M20, M21. -/
theorem test_M20_load_fault :
    (run1 0xF165#16 { base with ireg := 0x0FFF#16 }).status = .fatal ⟨.memBounds, 0x0200#16, some 0xF165#16⟩ ∧
    (run1 0xF065#16 { base with ireg := 0x0050#16 }).getV 0x0 = 0xF0#8 := by decide

/-! ### Display -/

/-- G1. -/
theorem test_G1_cls : (run1 0x00E0#16 (withPixel 63 31 base)).pixel 63 31 = false := by decide
/-- G2: the origin wraps, the sprite is clipped. -/
theorem test_G2_draw :
    let t := run1 0xD011#16 (withRegs [(0x0, 0x7E), (0x1, 0x3F)] (withBytes 0x0300#16 [0xC3] base))
    t.pixel 61 31 = false ∧ t.pixel 62 31 = true ∧ t.pixel 63 31 = true ∧ t.pixel 0 31 = false ∧
      t.pixel 4 31 = false ∧ t.getV VF = 0#8 := by decide
/-- G4, G7. -/
theorem test_G4_collision :
    (run1 0xD011#16 (withPixel 0 0 (withBytes 0x0300#16 [0x80] base))).pixel 0 0 = false ∧
    (run1 0xD011#16 (withPixel 0 0 (withBytes 0x0300#16 [0x80] base))).getV VF = 1#8 ∧
    (run1 0xD010#16 (withRegs [(VF, 1)] (withPixel 5 5 base))).getV VF = 0#8 := by decide

/-! ### Input -/

/-- `base` with key 7 pressed. -/
def pressed7 : State := base.pressKey 0x7#4

/-- K1: the low nibble selects the key, and the latch stays. -/
theorem test_K1_skp :
    (run1 0xE19E#16 (withRegs [(0x1, 0x37)] pressed7)).pc = 0x0204#16 ∧
    (run1 0xE19E#16 (withRegs [(0x1, 0x37)] pressed7)).latchValid = true ∧
    (run1 0xE19E#16 (withRegs [(0x1, 0x36)] pressed7)).pc = 0x0202#16 := by decide
/-- K2, K3. -/
theorem test_K2_sknp :
    (run1 0xE1A1#16 (withRegs [(0x1, 0x37)] pressed7)).pc = 0x0202#16 ∧
    (run1 0xE1A1#16 (withRegs [(0x1, 0x17)] base)).pc = 0x0204#16 := by decide
/-- S10. -/
theorem test_S10_key_read :
    ((run1 0xF10A#16 base).status, (run1 0xF10A#16 base).pc) = (.awaitKey, 0x0200#16) ∧
    (run1 0xF10A#16 pressed7).getV 0x1 = 7#8 ∧ (run1 0xF10A#16 pressed7).latchValid = false ∧
    (run1 0xF10A#16 pressed7).pc = 0x0202#16 := by decide
/-- K6, K7: with `LATCH_CLEAR_ON_STEP` any completed step clears the latch, after the key read has consumed it. -/
theorem test_K6_latch_clearing :
    (run1 0x6000#16 (clearing pressed7)).latchValid = false ∧ (run1 0xF10A#16 (clearing pressed7)).getV 0x1 = 7#8 ∧
    (run1 0x00EE#16 (clearing pressed7)).latchValid = true := by decide
/-- K4, K9. -/
theorem test_K4_latest_press :
    (transactAll [.keyDown 3, .keyDown 5, .keyDown 16] base).2.latchKey = 5#4 ∧
    (transactAll [.keyDown 3, .keyDown 5, .keyDown 16] base).1 = [.ok, .ok, .refused] := by decide

/-! ### Timers and host transactions -/

/-- T3. -/
theorem test_T3_ld_dt : (run1 0xFC15#16 (withRegs [(0xC, 60)] base)).dt = 60#8 := by decide
/-- T4. -/
theorem test_T4_ld_st :
    (transact .sound (run1 0xF018#16 (withRegs [(0x0, 5)] base))).1 = .byte 5#8 := by decide
/-- T5. -/
theorem test_T5_ld_vx_dt : (run1 0xF207#16 { base with dt := 58#8 }).getV 0x2 = 58#8 := by decide
/-- T1, T2. -/
theorem test_T2_tick :
    ((State.tick { base with dt := 1#8, st := 3#8 }).dt, (State.tick { base with dt := 1#8, st := 3#8 }).st) = (0#8, 2#8) ∧
    (base.tick.dt, base.tick.st) = (0#8, 0#8) := by decide
/-- D14: a faulted block repeats its record, and a tick still counts. -/
theorem test_D14_faulted :
    let r : FaultRecord := ⟨.memBounds, 0x0300#16, some 0xF155#16⟩
    let s : State := { base with fault := some r, dt := 3#8 }
    (s.stepWith 0#8).1 = .status (.fatal r) ∧ (s.stepWith 0#8).2.pc = 0x0200#16 ∧ (transact .tick s).2.dt = 2#8 := by
  decide
/-- H2 to H5. -/
theorem test_H2_load :
    (transact (.load 0xFFF (some [1, 2])) base).1 = .loadError ∧ (transact (.load 0x50 (some [0])) base).1 = .loadError ∧
    (transact (.load 0x200 (some [])) base).1 = .ok ∧
    (transact (.load 0x200 (some [0x12, 0x00])) base).2.loadBytes 0x200 2 = [0x12, 0x00] := by decide
/-- The codes of 60_exceptions.md R381 to R385. -/
theorem test_fatal_codes :
    [FatalKind.fetchBounds, .stackOverflow, .stackUnderflow, .memBounds, .fontWrite].map FatalKind.code = [1, 2, 3, 4, 5] := by
  decide
/-- Memory stays canonical: writing back what an unlisted address reads as removes the cell. -/
theorem test_memory_canonical :
    ((base.memWrite 0x300 5#8).memWrite 0x300 0#8).mem = [] ∧ (base.memWrite 0x300 5#8).mem = [(0x300, 5#8)] := by decide

/-! ### Witnesses: the hypotheses of the obligations can be met, each clause at a boundary -/

theorem base_inv : base.Inv where
  params := by decide
  memory := by decide
  font := by decide
  stackLength := by decide
  spBound := by decide
  pcBound := by decide
  returnBound := fun w h => by rw [List.eq_of_mem_replicate (show w ∈ List.replicate 16 0#16 from h)]; decide
  record := fun r h => absurd (show (none : Option FaultRecord) = some r from h) (by simp)

/-- The state at which the word's step runs. -/
theorem willRun_of {s : State} (w : Word) {i : Instr} (hf : s.fault = none) (hw : s.fetchWord = some w)
    (hd : decode w = .instr i) : s.WillRun i := ⟨w, ⟨hf, hw⟩, hd⟩

theorem test_witness_DecodeOfEncodeIsTheInstruction : (Instr.drw 0xF#4 0x0#4 0xF#4).wf = true := rfl
theorem test_witness_EncodeOfDecodeIsTheWord : decode 0xFF65#16 = .instr (.ldVxMem 0xF) := by decide
theorem test_witness_EveryWordFitsOneRowOrIsADecodeError :
    opcodeRow (.shl 0x0 0x0) ∈ opcodeRows ∧ 0x8FFE#16 &&& (opcodeRow (.shl 0x0 0x0)).mask = (opcodeRow (.shl 0x0 0x0)).pattern := by
  decide
theorem test_witness_StepRunsTheDecodedInstruction :
    let s := (clearing base).placeWord 0x00E0#16
    s.fault = none ∧ s.pc.toNat + 1 < 4096 ∧ decode (s.memRead s.pc.toNat ++ s.memRead (s.pc.toNat + 1)) = .instr .cls := by
  decide
/-- 0xFFF faults at the fetch, 0xFFE does not. -/
theorem test_witness_FetchReadsBigEndianAndAdvances :
    let s : State := { base with pc := 0x0FFF#16 }
    let t : State := { base with pc := 0x0FFE#16 }
    s.fault = none ∧ 4096 ≤ s.pc.toNat + 1 ∧ t.fault = none ∧ t.pc.toNat + 1 < 4096 ∧
      decode (t.memRead t.pc.toNat ++ t.memRead (t.pc.toNat + 1)) = .decodeError 0x0000#16 := by decide
/-- The clause about instructions, at 0xFFE. -/
theorem test_witness_FetchReadsBigEndianAndAdvances_instr :
    let t : State := State.placeWord { base with pc := 0x0FFE#16 } 0x00E0#16
    t.fault = none ∧ t.pc.toNat + 1 < 4096 ∧
      decode (t.memRead t.pc.toNat ++ t.memRead (t.pc.toNat + 1)) = .instr .cls ∧
      ∃ u, exec .cls { t with pc := t.pc + 2#16 } = .next u := ⟨by decide, by decide, by decide, _, rfl⟩
theorem test_witness_DecodeErrorOnlyAdvancesPc :
    State.WillFetch { base with pc := 0x0FFE#16 } 0x0000#16 ∧ decode 0x0000#16 = .decodeError 0x0000#16 :=
  ⟨⟨by decide, by decide⟩, by decide⟩
theorem test_witness_FaultedBlockIsFrozenUntilInit :
    (run1 0x00EE#16 base).fault = some ⟨.stackUnderflow, 0x0200#16, some 0x00EE#16⟩ ∧
    ∀ off : Word, Transaction.load 0x200 (some [1]) ≠ .init off := ⟨by decide, fun _ h => by cases h⟩
theorem test_witness_FatalStepIsPrecise :
    let s := State.placeWord { base with sp := 16 } 0x2300#16
    s.fault = none ∧ ∃ t, step s = .next t ∧ t.fault = some ⟨.stackOverflow, 0x0200#16, some 0x2300#16⟩ :=
  ⟨by decide, _, rfl, by decide⟩
theorem test_witness_StepIsTotalAndOnlyRndReadsTheRandomByte :
    ∀ x nn, ¬ (base.placeWord 0x00E0#16).WillRun (.rnd x nn) := fun x nn h => by
  cases willRun_unique h (willRun_of 0x00E0#16 (by decide) (by decide) (by decide : _ = Decoded.instr .cls))
theorem test_witness_OnlyTableWritersChangeRegisters :
    ∃ t, step (base.placeWord 0x6A7B#16) = .next t ∧ t.getV 0xA#4 ≠ (base.placeWord 0x6A7B#16).getV 0xA#4 :=
  ⟨_, rfl, by decide⟩
theorem test_witness_OnlyThreeInstructionsChangeTheIndexRegister :
    ∃ t, step (base.placeWord 0xF029#16) = .next t ∧ t.ireg ≠ (base.placeWord 0xF029#16).ireg := ⟨_, rfl, by decide⟩
theorem test_witness_OnlyListedInstructionsRedirectThePc :
    let s := State.placeWord { base with pc := 0x0FFE#16 } 0x00E0#16
    s.WillRun .cls ∧ writesPc .cls = false ∧ ∃ t, step s = .next t ∧ t.fault = none :=
  ⟨willRun_of 0x00E0#16 (by decide) (by decide) (by decide), rfl, _, rfl, by decide⟩
theorem test_witness_StepsNeverCountTimers :
    (∃ t, step ((withRegs [(0xC, 60)] base).placeWord 0xFC15#16) = .next t ∧ t.dt ≠ 0#8) ∧
    ∃ t, step ((withRegs [(0xC, 60)] base).placeWord 0xFC18#16) = .next t ∧ t.st ≠ 0#8 :=
  ⟨⟨_, rfl, by decide⟩, _, rfl, by decide⟩
/-- The last slot is pushed, and popped again. -/
theorem test_witness_OnlyCallAndReturnTouchTheStack :
    (∃ t, step (State.placeWord { base with sp := 15 } 0x2300#16) = .next t ∧ t.sp ≠ 15 ∧ t.slot 15 ≠ 0#16) ∧
    ∃ t, step (State.placeWord { base with sp := 16 } 0x00EE#16) = .next t ∧ t.sp ≠ 16 :=
  ⟨⟨_, rfl, by decide, by decide⟩, _, rfl, by decide⟩
theorem test_witness_OnlyClearAndDrawChangePixels :
    (∃ t, step ((withPixel 63 31 base).placeWord 0x00E0#16) = .next t ∧ t.pixel 63 31 ≠ (withPixel 63 31 base).pixel 63 31) ∧
    ∃ t, step ((withBytes 0x0300#16 [0x80] base).placeWord 0xD011#16) = .next t ∧ t.pixel 0 0 ≠ base.pixel 0 0 :=
  ⟨⟨_, rfl, by decide⟩, _, rfl, by decide⟩
theorem test_witness_OnlyStoresChangeMemory :
    ∃ t, step ((withRegs [(0x0, 0xAA)] { base with ireg := 0x0FFF#16 }).placeWord 0xF055#16) = .next t ∧
      t.memRead 0xFFF ≠ base.memRead 0xFFF := ⟨_, rfl, by decide⟩
theorem test_witness_OnlyTheKeyReadConsumesTheLatch :
    let s := pressed7.placeWord 0xF10A#16
    s.params.latchClearOnStep = false ∧ s.latchValid = true ∧ ∃ t, step s = .next t ∧ t.latchValid = false :=
  ⟨by decide, by decide, _, rfl, by decide⟩
theorem test_witness_EveryStepKeepsTheInvariant : base.Inv ∧ ∃ t, step base = .next t := ⟨base_inv, _, rfl⟩
theorem test_witness_EveryTransactionKeepsTheInvariant :
    base.Inv ∧ ∀ off : Word, Transaction.init 0x0FFE#16 = .init off → off.toNat + 1 < 4096 :=
  ⟨base_inv, fun off h => by cases h; decide⟩
theorem test_witness_FontSurvivesEverySchedule :
    base.Inv ∧ (∀ off : Word, .init off ∈ [Transaction.step 0, .init 0x0FFE#16] → off.toNat + 1 < 4096) ∧ 79 < 80 :=
  ⟨base_inv, fun off h => by simp at h; subst h; decide, by decide⟩
theorem test_witness_JumpSetsThePc :
    (base.fault = none ∧ ∃ t, exec (.jp 0xFFF) base = .next t ∧ t.pc = 0x0FFF#16) ∧
    (base.placeWord 0x1200#16).WillRun (.jp 0x200) ∧ (base.placeWord 0x1200#16).pc = BitVec.setWidth 16 0x200#12 :=
  ⟨⟨rfl, _, rfl, by decide⟩, willRun_of 0x1200#16 (by decide) (by decide) (by decide), by decide⟩
theorem test_witness_ImmediateSkips :
    let s : State := { base with pc := 0x0FFE#16 }
    s.pc = 0x0FFE#16 ∧ s.fault = none ∧ s.getV 0x0#4 = 0x00#8 ∧ s.getV 0x0#4 ≠ 0x01#8 := by decide
/-- One below the capacity and at it. -/
theorem test_witness_CallPushesTheReturnAddress :
    let s : State := { base with sp := 15 }
    let t : State := { base with sp := 16 }
    s.stack.length = s.params.stackCapacity ∧ s.sp < s.params.stackCapacity ∧
      t.stack.length = t.params.stackCapacity ∧ t.sp = t.params.stackCapacity := by decide
theorem test_witness_ReturnPopsThePc : 0 < State.sp { base with sp := 1 } ∧ base.sp = 0 := by decide
theorem test_witness_ReturnComesBackAfterTheCall :
    let s : State := { base with sp := 15 }
    s.stack.length = s.params.stackCapacity ∧ s.sp < s.params.stackCapacity ∧
      ∃ t, exec (.call 0x300) s = .next t ∧ ∃ u : State, u.sp = t.sp ∧ u.stack = t.stack :=
  ⟨by decide, by decide, _, rfl, _, rfl, rfl⟩
theorem test_witness_RandomByteIsMasked : (base.placeWord 0xC30F#16).WillRun (.rnd 0x3 0x0F) :=
  willRun_of 0xC30F#16 (by decide) (by decide) (by decide)
theorem test_witness_IndexAddAndGlyphAddress : base.params.wf = true := by decide
/-- The last three bytes of memory, and the first three after the font. -/
theorem test_witness_DecimalDigitsAreStored :
    Memory.wf base.params base.mem = true ∧ (∀ k, k < 3 → 0xFFD + k < 4096 ∧ inFont base.params (0xFFD + k) = false) ∧
      ∀ k, k < 3 → 0xA0 + k < 4096 ∧ inFont base.params (0xA0 + k) = false := by decide
/-- All sixteen registers to the last sixteen bytes, and to the sixteen after the font. -/
theorem test_witness_RegistersAreStored :
    Memory.wf base.params base.mem = true ∧
      (∀ k, k < 16 → 0xFF0 + k < 4096 ∧ inFont base.params (0xFF0 + k) = false) ∧
      ∀ k, k < 16 → 0xA0 + k < 4096 ∧ inFont base.params (0xA0 + k) = false := by decide
theorem test_witness_RegistersAreLoaded :
    State.indexAddr { base with ireg := 0x0FF0#16 } + (0xF#4).toNat < 4096 := by decide
theorem test_witness_LoadRestoresWhatStoreSaved :
    let s : State := { base with ireg := 0x0FF0#16 }
    ∃ t, exec (.ldMemVx 0xF) s = .next t ∧ t.fault = none ∧
      ∃ u : State, u.mem = t.mem ∧ u.params = t.params ∧ u.ireg = t.ireg := ⟨_, rfl, by decide, _, rfl, rfl, rfl⟩
/-- The first failing address is the first past memory, or the first of the font; the addresses below it pass. -/
theorem test_witness_FirstFailingAddressIsRaised :
    (4096 ≤ 0xFFE + 2 ∧ ∀ j, j < 2 → 0xFFE + j < 4096 ∧ inFont base.params (0xFFE + j) = false) ∧
    ((0x4F + 1 < 4096 ∧ inFont base.params (0x4F + 1) = true) ∧
      ∀ j, j < 1 → 0x4F + j < 4096 ∧ inFont base.params (0x4F + j) = false) ∧
    (0x4E + 2 < 4096 ∧ inFont base.params (0x4E + 2) = true) ∧ 2 < 3 ∧ 2 ≤ (0xF#4).toNat ∧ 2 < (0xF#4).toNat := by decide
/-- The last byte of memory is drawn; and a draw of no rows asks nothing of `I`. -/
theorem test_witness_DrawXorsTheSprite :
    (∀ r, r < (0x1#4).toNat → State.indexAddr { base with ireg := 0x0FFF#16 } + r < 4096) ∧
    ∀ r, r < (0x0#4).toNat → State.indexAddr { base with ireg := 0xFFFF#16 } + r < 4096 := by decide
/-- A draw that turns a pixel off, and one that does not. -/
theorem test_witness_CollisionMeansAPixelWentOff :
    let s := withPixel 0 0 (withBytes 0x0300#16 [0x80] base)
    (∀ r, r < (0x1#4).toNat → s.ireg.toNat + r < 4096) ∧
      (∃ t, exec (.drw 0x0 0x0 0x1) s = .next t ∧ ∃ px py, s.pixel px py = true ∧ t.pixel px py = false) ∧
      ∃ t, exec (.drw 0x0 0x0 0x0) base = .next t ∧ ¬ ∃ px py, base.pixel px py = true ∧ t.pixel px py = false :=
  ⟨by decide, ⟨_, rfl, 0, 0, by decide, by decide⟩, _, rfl, fun ⟨px, py, h, _⟩ =>
    absurd ((getPixel_clearFb px py).symm.trans h) (by simp)⟩
theorem test_witness_SecondDrawRestoresTheFramebuffer :
    let s := withBytes 0x0300#16 [0x80] base
    (∀ r, r < (0x1#4).toNat → s.ireg.toNat + r < 4096) ∧
      ∃ t, exec (.drw 0x0 0x1 0x1) s = .next t ∧ t.getV 0x0#4 = s.getV 0x0#4 ∧ t.getV 0x1#4 = s.getV 0x1#4 :=
  ⟨by decide, _, rfl, by decide, by decide⟩
/-- S7 and G12, a second draw after G2; and a first draw that only turns its pixel off, whose second draw meets no pixel
that is on, so that by R303 VF is 0 (log 35). -/
theorem test_second_draw :
    let s := withRegs [(0x0, 0x7E), (0x1, 0x3F)] (withBytes 0x0300#16 [0xC3] base)
    let t := withPixel 0 0 (withBytes 0x0300#16 [0x80] base)
    (run1 0xD011#16 (run1 0xD011#16 s)).pixel 62 31 = false ∧ (run1 0xD011#16 (run1 0xD011#16 s)).getV VF = 1#8 ∧
    (run1 0xD011#16 (run1 0xD011#16 t)).pixel 0 0 = true ∧ (run1 0xD011#16 (run1 0xD011#16 t)).getV VF = 0#8 := by decide
theorem test_witness_KeyReadConsumesOrWaits : pressed7.latchValid = true ∧ base.latchValid = false := by decide
theorem test_witness_WaitForAKeyGoesOnUnchanged :
    (base.placeWord 0xF10A#16).WillRun (.ldVxK 0x1) ∧ (base.placeWord 0xF10A#16).latchValid = false :=
  ⟨willRun_of 0xF10A#16 (by decide) (by decide) (by decide), by decide⟩
theorem test_witness_KeyEvents :
    (transact (.keyDown 15) base).1 = .ok ∧ (transact (.keyDown 16) base).1 = .refused := by decide
theorem test_witness_PressAndReleaseSatisfiesTheKeyRead :
    (base.placeWord 0xFF0A#16).WillRun (.ldVxK 0xF) ∧ 15 < 16 :=
  ⟨willRun_of 0xFF0A#16 (by decide) (by decide) (by decide), by decide⟩
/-- Up to the last byte, one past it, and over the last byte of the font. -/
theorem test_witness_LoadCopiesOrRefuses :
    Memory.wf base.params base.mem = true ∧ 0xFFE + [1#8, 2#8].length ≤ 4096 ∧
      (∀ k, k < 2 → inFont base.params (0xFFE + k) = false) ∧ 4096 < 0xFFF + [1#8, 2#8].length ∧
      inFont base.params (0x9F + 0) = true := by decide
theorem test_witness_LoadedWordIsFetchedNext :
    let s : State := { base with pc := 0x0FFE#16 }
    Memory.wf s.params s.mem = true ∧ s.fault = none ∧ 0x200 ≤ s.pc.toNat ∧ s.pc.toNat + 1 < 4096 := by decide
theorem test_witness_QueriesChangeNothing :
    (transact (.pixel 63 31) base).1 = .bit false ∧ (transact (.pixel 64 0) base).1 = .refused ∧
    (transact (.pixel 0 32) base).1 = .refused := by decide

end Sys2Proof.Tests
end

section
/-! PROOFS. Every transaction keeps the invariant of the block (O22), and a fatal step is precise (O10). -/

namespace Sys2Proof

/-! ### Encoding what was decoded -/

/-- A word of format `nnn` (30_encoding.md R103) is its group and its address. -/
theorem Word.eq_of_group_nnn {w : Word} {g : Nibble} (hg : Word.group w = g) : g ++ Word.fieldNnn w = w :=
  hg ▸ Word.eq_group_nnn w

/-- A word of format `xnn` is its group, its register and its byte. -/
theorem Word.eq_of_group_xnn {w : Word} {g : Nibble} (hg : Word.group w = g) :
    g ++ Word.fieldX w ++ Word.fieldNn w = w := hg ▸ Word.eq_group_x_nn w

/-- A word of format `xyn` is its group, its registers and its count. -/
theorem Word.eq_of_group_xyn {w : Word} {g : Nibble} (hg : Word.group w = g) :
    g ++ Word.fieldX w ++ Word.fieldY w ++ Word.fieldN w = w := hg ▸ Word.eq_group_x_y_n w

/-- A word whose low nibble selects the operation is determined by group, registers and that nibble. -/
theorem Word.eq_of_group_fieldN {w : Word} {g n : Nibble} (hg : Word.group w = g) (hn : Word.fieldN w = n) :
    g ++ Word.fieldX w ++ Word.fieldY w ++ n = w := hn ▸ Word.eq_of_group_xyn hg

/-- A word whose low byte selects the operation is determined by group, register and that byte. -/
theorem Word.eq_of_group_fieldNn {w : Word} {g : Nibble} {b : Byte} (hg : Word.group w = g)
    (hb : Word.fieldNn w = b) : g ++ Word.fieldX w ++ b = w := hb ▸ Word.eq_of_group_xnn hg

theorem encode_decodeGroup0 {w : Word} {i : Instr} (h : decodeGroup0 w = .instr i) : encode i = w := by
  unfold decodeGroup0 at h
  split at h
  · cases h; exact .symm ‹_›
  · split at h <;> cases h
    exact .symm ‹_›

theorem encode_decodeGroup5 {w : Word} {i : Instr} (hg : Word.group w = 0x5#4) (h : decodeGroup5 w = .instr i) :
    encode i = w := by
  unfold decodeGroup5 at h
  split at h <;> cases h
  exact Word.eq_of_group_fieldN hg ‹_›

theorem encode_decodeGroup8 {w : Word} {i : Instr} (hg : Word.group w = 0x8#4) (h : decodeGroup8 w = .instr i) :
    encode i = w := by
  unfold decodeGroup8 at h
  split at h <;> cases h
  all_goals exact Word.eq_of_group_fieldN hg ‹_›

theorem encode_decodeGroup9 {w : Word} {i : Instr} (hg : Word.group w = 0x9#4) (h : decodeGroup9 w = .instr i) :
    encode i = w := by
  unfold decodeGroup9 at h
  split at h <;> cases h
  exact Word.eq_of_group_fieldN hg ‹_›

theorem encode_decodeGroupE {w : Word} {i : Instr} (hg : Word.group w = 0xE#4) (h : decodeGroupE w = .instr i) :
    encode i = w := by
  unfold decodeGroupE at h
  split at h <;> cases h
  all_goals exact Word.eq_of_group_fieldNn hg ‹_›

theorem encode_decodeGroupF {w : Word} {i : Instr} (hg : Word.group w = 0xF#4) (h : decodeGroupF w = .instr i) :
    encode i = w := by
  unfold decodeGroupF at h
  split at h <;> cases h
  all_goals exact Word.eq_of_group_fieldNn hg ‹_›

/-- A word that decodes to an instruction is that instruction's encoding: each group by its format, the groups with
sub-operations by their own lemma. -/
theorem encode_of_decode {w : Word} {i : Instr} (h : decode w = .instr i) : encode i = w := by
  unfold decode at h
  split at h
  case h_1 => exact encode_decodeGroup0 h
  case h_6 hg => exact encode_decodeGroup5 hg h
  case h_9 hg => exact encode_decodeGroup8 hg h
  case h_10 hg => exact encode_decodeGroup9 hg h
  case h_14 hg => cases h; exact Word.eq_of_group_xyn hg
  case h_15 hg => exact encode_decodeGroupE hg h
  case h_16 =>
    simp only [imp_false] at *
    exact encode_decodeGroupF (by bv_omega) h
  case h_2 hg | h_3 hg | h_11 hg | h_12 hg => cases h; exact Word.eq_of_group_nnn hg
  all_goals (cases h; exact Word.eq_of_group_xnn ‹_›)

end Sys2Proof

namespace Sys2Proof.Machine

/-! ### The precise fatal error -/

/-- `STEP` is total (40_fetch_decode.md R151). -/
theorem step_next (s : State) : ∃ t, step s = .next t := by
  cases hf : s.fault with
  | some r => exact ⟨_, step_of_faulted hf⟩
  | none =>
    cases hw : s.fetchWord with
    | none => exact ⟨_, step_of_fetchFault hf hw⟩
    | some w =>
      cases hd : decode w with
      | decodeError u => exact ⟨_, step_of_decodeError ⟨hf, hw⟩ (decodeError_word hd ▸ hd)⟩
      | instr i =>
        obtain ⟨u, hu⟩ := exec_next i s.advance
        exact ⟨_, step_of_instr ⟨hf, hw⟩ hd hu⟩

/-- `LATCH_CLEAR_ON_STEP` does nothing at the end of a fatal step (40_fetch_decode.md R140). -/
theorem State.endStep_raiseIn (s : State) (kind : FatalKind) (i : Instr) :
    (s.raiseIn kind i).endStep = s.raiseIn kind i := by
  simp [State.endStep]

/-- Raising after the fetch undoes its advance of `pc`: what differs from the state before the step is `FAULT` and the
status (00_scope.md R12). -/
theorem State.raiseIn_advance (s : State) (kind : FatalKind) (i : Instr) :
    s.advance.raiseIn kind i = { s with
      fault := some ⟨kind, s.pc, some (encode i)⟩, status := .fatal ⟨kind, s.pc, some (encode i)⟩ } := by
  rw [State.raiseIn, State.ia_advance]
  rfl

/-- Settles O10: of the four things a step can do, only a faulting fetch and a raising instruction set `FAULT`. -/
theorem fatalStepIsPrecise : Obligations.FatalStepIsPrecise := by
  intro s t r hf hstep hr
  obtain ⟨r', hf', -⟩ | ⟨-, hfetch, rfl⟩ | ⟨w, -, -, rfl⟩ | ⟨w, i, u, hw, hd, hu, rfl⟩ := step_cases hstep
  · simp [hf] at hf'
  · obtain rfl := Option.some.inj hr
    exact ⟨rfl, rfl, hfetch.symm, rfl⟩
  · simp [hf] at hr
  · obtain hc | ⟨kind, rfl, hlegal⟩ := exec_cases hu
    · simp [hc.fault, hf] at hr
    · rw [State.endStep_raiseIn, State.raiseIn_advance] at hr ⊢
      obtain rfl := Option.some.inj hr
      rw [State.ia_advance] at hlegal
      exact ⟨rfl, rfl, by rw [hw.2, encode_of_decode hd], hlegal⟩

/-! ### Keeping the invariant, operation by operation -/

/-- The invariant reads seven fields; registers, timers, pixels, keys and the random supply are free. -/
theorem State.Inv.of_eq {s t : State} (h : s.Inv) (hparams : t.params = s.params := by simp)
    (hmem : t.mem = s.mem := by simp) (hstack : t.stack = s.stack := by simp) (hsp : t.sp = s.sp := by simp)
    (hpc : t.pc = s.pc := by simp) (hfault : t.fault = s.fault := by simp)
    (hstatus : t.status = s.status := by simp) : t.Inv where
  params := by rw [hparams]; exact h.params
  memory := by rw [hparams, hmem]; exact h.memory
  font := by rw [hparams, hmem]; exact h.font
  stackLength := by rw [hparams, hstack]; exact h.stackLength
  spBound := by rw [hparams, hsp]; exact h.spBound
  pcBound := by rw [hpc]; exact h.pcBound
  returnBound := by rw [hstack]; exact h.returnBound
  record := by rw [hfault, hstatus, hpc]; exact h.record

theorem State.Inv.endStep {s : State} (h : s.Inv) : s.endStep.Inv :=
  h.of_eq

/-- Bytes stored inside the address space and clear of the font region keep the invariant. -/
theorem State.Inv.storeBytes {s : State} (h : s.Inv) (a : Nat) (bs : List Byte)
    (hfit : bs = [] ∨ a + bs.length ≤ Config.memSize) (hfont : ∀ k, k < bs.length → inFont s.params (a + k) = false) :
    (s.storeBytes a bs).Inv where
  params := by simpa using h.params
  memory := by simpa using State.wf_storeBytes h.memory a bs hfit
  font := by simpa using State.fontIntact_storeBytes h.font a bs hfont
  stackLength := by simpa using h.stackLength
  spBound := by simpa using h.spBound
  pcBound := by simpa using h.pcBound
  returnBound := by simpa using h.returnBound
  record := by simpa using h.record

/-- A run of bytes that pass the write check lies inside the address space and clear of the font region. -/
theorem fits_of_writeFault {p : Params} {a : Nat} {bs : List Byte}
    (hw : ∀ k, k < bs.length → writeFault p (a + k) = none) :
    (bs = [] ∨ a + bs.length ≤ Config.memSize) ∧ ∀ k, k < bs.length → inFont p (a + k) = false := by
  refine ⟨?_, fun k hk => (writeFault_eq_none_iff.mp (hw k hk)).2⟩
  cases bs with
  | nil => exact .inl rfl
  | cons b bs =>
    have hlast := (writeFault_eq_none_iff.mp (hw bs.length (by simp))).1
    exact .inr (by rw [List.length_cons]; omega)

/-- Raising a kind its instruction can raise keeps the invariant. -/
theorem State.Inv.raise {s : State} (h : s.Inv) {kind : FatalKind} {ia : Word} {w : Option Word}
    (hia : ia.toNat ≤ 0x10FE) (hlegal : FaultRecord.Legal ⟨kind, ia, w⟩) : (s.raise kind ia w).Inv :=
  { h with
    pcBound := hia
    record := fun r hr => by obtain rfl := Option.some.inj hr; exact ⟨rfl, rfl, hlegal⟩ }

/-- The fetch's advance of a block that is not faulted keeps the invariant. -/
theorem State.Inv.advance {s : State} (h : s.Inv) (hf : s.fault = none) (hpc : s.pc.toNat + 1 < 4096) :
    s.advance.Inv :=
  { h with
    pcBound := by rw [State.advance_pc, advance_pc_toNat hpc]; omega
    record := fun r hr => by simp [hf] at hr }

/-- A word that names no instruction keeps the invariant of a block that is not faulted. -/
theorem State.Inv.reportDecodeError {s : State} (h : s.Inv) (hf : s.fault = none) (w : Word) :
    (s.reportDecodeError w).Inv :=
  { h with record := fun r hr => by simp [hf] at hr }

/-- A slot holds a return address, or 0 outside the stack. -/
theorem State.Inv.slot_le {s : State} (h : s.Inv) (j : Nat) : (s.slot j).toNat ≤ 0x1000 := by
  by_cases hj : j < s.stack.length
  · rw [State.slot, List.getD_eq_getElem _ _ hj]
    exact h.returnBound _ (List.getElem_mem hj)
  · rw [State.slot, List.getD_eq_default _ _ (by omega)]
    decide

/-! ### Keeping the invariant, instruction by instruction -/

section
variable {i : Instr} {s u : State}

/-- The farthest `pc` is that of BNNN (10_state.md R36): a skip reaches 4098, a return a pushed address. -/
theorem Completes.pcBound (hc : Completes i s u) (h : s.Inv) (hpc : s.pc.toNat ≤ 0x1000) (hia : s.ia.toNat ≤ 0x10FE) :
    u.pc.toNat ≤ 0x10FE := by
  obtain hu | hu | hu | ⟨hu, -⟩ | hu := hc.pcValue
  · rw [hu]; omega
  · rw [hu, BitVec.toNat_add, BitVec.toNat_ofNat]; omega
  · exact hu
  · have := h.slot_le (s.sp - 1)
    rw [hu]; omega
  · rw [hu]; exact hia

theorem Completes.stackLength (hc : Completes i s u) (h : s.Inv) : u.stack.length = u.params.stackCapacity := by
  rw [hc.params, ← h.stackLength]
  obtain ⟨-, hstack⟩ | ⟨-, -, -, hstack⟩ | ⟨-, -, hstack⟩ := hc.stack <;> simp [hstack]

theorem Completes.spBound (hc : Completes i s u) (h : s.Inv) : u.sp ≤ u.params.stackCapacity := by
  have := h.spBound
  rw [hc.params]
  obtain ⟨hsp, -⟩ | ⟨-, hlt, hsp, -⟩ | ⟨-, hsp, -⟩ := hc.stack <;> omega

/-- Only the return address of a call is pushed, the advanced `pc`. -/
theorem Completes.returnBound (hc : Completes i s u) (h : s.Inv) (hpc : s.pc.toNat ≤ 0x1000) :
    ∀ w ∈ u.stack, w.toNat ≤ 0x1000 := by
  intro w hw
  obtain ⟨-, hstack⟩ | ⟨-, -, -, hstack⟩ | ⟨-, -, hstack⟩ := hc.stack <;> rw [hstack] at hw
  · exact h.returnBound w hw
  · obtain hw | rfl := List.mem_or_eq_of_mem_set hw
    · exact h.returnBound w hw
    · exact hpc
  · exact h.returnBound w hw

/-- A completed instruction keeps the invariant; during `Execute`, `pc` is at most 4096. -/
theorem Completes.inv (hc : Completes i s u) (h : s.Inv) (hf : s.fault = none) (hpc : s.pc.toNat ≤ 0x1000)
    (hia : s.ia.toNat ≤ 0x10FE) : u.Inv := by
  obtain ⟨bs, hmem, -, hw⟩ := hc.memory
  obtain ⟨hfit, hfont⟩ := fits_of_writeFault hw
  exact {
    params := by rw [hc.params]; exact h.params
    memory := by rw [hc.params, hmem]; exact State.wf_storeBytes h.memory _ _ hfit
    font := by rw [hc.params, hmem]; exact State.fontIntact_storeBytes h.font _ _ hfont
    stackLength := hc.stackLength h
    spBound := hc.spBound h
    pcBound := hc.pcBound h hpc hia
    returnBound := hc.returnBound h hpc
    record := fun r hr => by simp [hc.fault, hf] at hr }

end

/-! ### Keeping the invariant, transaction by transaction -/

/-- A step keeps the invariant, whichever of its four ways it takes. -/
theorem State.Inv.step {s t : State} (h : s.Inv) (hstep : Machine.step s = .next t) : t.Inv := by
  obtain ⟨r, hr, rfl⟩ | ⟨-, -, rfl⟩ | ⟨w, hw, -, rfl⟩ | ⟨w, i, u, hw, -, hu, rfl⟩ := step_cases hstep
  · exact h.of_eq (hstatus := (h.record r hr).1.symm)
  · exact h.raise h.pcBound rfl
  · exact ((h.advance hw.1 (pc_lt_of_willFetch hw)).reportDecodeError hw.1 w).endStep
  · have hlt := pc_lt_of_willFetch hw
    have hadv : s.advance.Inv := h.advance hw.1 hlt
    have hia : s.advance.ia.toNat ≤ 0x10FE := by rw [State.ia_advance]; exact h.pcBound
    obtain hc | ⟨kind, rfl, hlegal⟩ := exec_cases hu
    · exact (hc.inv hadv hw.1 (by rw [State.advance_pc, advance_pc_toNat hlt]; omega) hia).endStep
    · exact (hadv.raise hia hlegal).endStep

theorem State.Inv.tick {s : State} (h : s.Inv) : s.tick.Inv := h.of_eq

theorem State.Inv.pressKey {s : State} (h : s.Inv) (k : Nibble) : (s.pressKey k).Inv := h.of_eq

theorem State.Inv.releaseKey {s : State} (h : s.Inv) (k : Nibble) : (s.releaseKey k).Inv := h.of_eq

/-- `STEP(rnd)` is the step with the byte in the state. -/
theorem State.stepWith_of_step {s t : State} {rnd : Byte} (h : Machine.step { s with rnd := rnd } = .next t) :
    s.stepWith rnd = (.status t.status, t) := by
  simp only [State.stepWith, h]

theorem State.Inv.stepWith {s : State} (h : s.Inv) (rnd : Byte) : (s.stepWith rnd).2.Inv := by
  obtain ⟨t, ht⟩ := step_next { s with rnd := rnd }
  have hrnd : State.Inv { s with rnd := rnd } := h.of_eq
  rw [State.stepWith_of_step ht]
  exact hrnd.step ht

/-- `INIT` establishes the invariant anew; of the state before it, it needs the parameters only. -/
theorem State.Inv.initialise {s : State} (h : s.Inv) {off : Word} (hoff : off.toNat + 1 < 4096) :
    (s.initialise off).Inv where
  params := h.params
  memory := rfl
  font := rfl
  stackLength := List.length_replicate
  spBound := Nat.zero_le _
  pcBound := show off.toNat ≤ 0x10FE by omega
  returnBound := fun w hw => by rw [List.eq_of_mem_replicate hw]; decide
  record := fun r hr => nomatch hr

theorem loadFits_iff {p : Params} {offset : Nat} {bytes : List Byte} :
    loadFits p offset bytes = true ↔
      offset + bytes.length ≤ Config.memSize ∧ ∀ k, k < bytes.length → inFont p (offset + k) = false := by
  simp [loadFits]

/-- `LOAD` copies only what fits (70_reset_and_hazards.md R424, D20). -/
theorem State.Inv.load {s : State} (h : s.Inv) (offset : Nat) (bytes : Option (List Byte)) :
    (s.load offset bytes).2.Inv := by
  cases bytes with
  | none => exact h
  | some bytes =>
    simp only [State.load]
    split
    · next hfits =>
      obtain ⟨hfit, hfont⟩ := loadFits_iff.mp hfits
      exact h.storeBytes offset bytes (.inr hfit) hfont
    · exact h

/-- Settles O22, transaction by transaction. -/
theorem everyTransactionKeepsTheInvariant : Obligations.EveryTransactionKeepsTheInvariant := by
  intro tr s h hinit
  cases tr with
  | init off => exact h.initialise (hinit off rfl)
  | load offset bytes => exact h.load offset bytes
  | step rnd => exact h.stepWith rnd
  | tick => exact h.tick
  | keyDown k =>
    simp only [transact]
    split
    · exact h.pressKey _
    · exact h
  | keyUp k =>
    simp only [transact]
    split
    · exact h.releaseKey _
    · exact h
  | pixel x y =>
    simp only [transact]
    split
    · exact h
    · exact h
  | sound => exact h

end Sys2Proof.Machine
end

section
/-! PROOFS. Every step keeps the invariant (O21), and who writes registers, `I`, the stack and pixels (O12, O13, O16,
O17; 10_state.md). -/

namespace Sys2Proof.Machine

/-- Settles O21: the step lemma of the invariant. -/
theorem everyStepKeepsTheInvariant : Obligations.EveryStepKeepsTheInvariant :=
  fun _ _ hinv hstep => hinv.step hstep

/-! ### What a step can change -/

/-- The end of a step changes the latch only (40_fetch_decode.md R140). -/
theorem State.endStep_eq (s : State) : s.endStep = { s with latchValid := s.endStep.latchValid } := by
  unfold State.endStep
  split <;> rfl

/-- A step that completes no instruction changes `pc`, the latch, `FAULT` and the status at most; any other changes what
its instruction changes, before the end of the step. -/
theorem step_keeps_or_completes {s t : State} (h : step s = .next t) :
    (∃ pc latchValid fault status,
      t = { s with pc := pc, latchValid := latchValid, fault := fault, status := status }) ∨
    ∃ i u, s.WillRun i ∧ Completes i s.advance u ∧ t = u.endStep := by
  obtain ⟨r, -, rfl⟩ | ⟨-, -, rfl⟩ | ⟨w, -, -, rfl⟩ | ⟨w, i, u, hw, hd, hu, rfl⟩ := step_cases h
  · exact .inl ⟨_, _, _, _, rfl⟩
  · exact .inl ⟨_, _, _, _, rfl⟩
  · exact .inl ⟨_, _, _, _, State.endStep_eq _⟩
  · obtain hc | ⟨kind, rfl, -⟩ := exec_cases hu
    · exact .inr ⟨i, u, ⟨w, hw, hd⟩, hc, rfl⟩
    · rw [State.endStep_raiseIn]
      exact .inl ⟨_, _, _, _, rfl⟩

/-! ### General registers, `I` and pixels -/

/-- Settles O12: a completed instruction keeps every register outside its row of the table of writers. -/
theorem onlyTableWritersChangeRegisters : Obligations.OnlyTableWritersChangeRegisters := by
  intro s t r hstep hne
  obtain ⟨_, _, _, _, rfl⟩ | ⟨i, u, hrun, hc, rfl⟩ := step_keeps_or_completes hstep
  · exact absurd rfl hne
  · refine ⟨i, hrun, by_contra fun hr => hne ?_⟩
    calc u.endStep.getV r = u.getV r := State.getV_congr u.endStep_v r
      _ = s.getV r := hc.regs r hr

/-- Settles O13, by the instruction that completed. -/
theorem onlyThreeInstructionsChangeTheIndexRegister : Obligations.OnlyThreeInstructionsChangeTheIndexRegister := by
  intro s t hstep hne
  obtain ⟨_, _, _, _, rfl⟩ | ⟨i, u, hrun, hc, rfl⟩ := step_keeps_or_completes hstep
  · exact absurd rfl hne
  · obtain hsame | ⟨nnn, rfl⟩ | ⟨x, rfl⟩ | ⟨x, rfl⟩ := hc.index
    · exact absurd (u.endStep_ireg.trans hsame) hne
    · exact .inl ⟨nnn, hrun⟩
    · exact .inr (.inl ⟨x, hrun⟩)
    · exact .inr (.inr ⟨x, hrun⟩)

/-- Settles O17, by the instruction that completed. -/
theorem onlyClearAndDrawChangePixels : Obligations.OnlyClearAndDrawChangePixels := by
  intro s t x y hstep hne
  obtain ⟨_, _, _, _, rfl⟩ | ⟨i, u, hrun, hc, rfl⟩ := step_keeps_or_completes hstep
  · exact absurd rfl hne
  · obtain hsame | rfl | ⟨x', y', n, rfl⟩ := hc.display
    · exact absurd (State.pixel_congr (u.endStep_fb.trans hsame) x y) hne
    · exact .inl hrun
    · exact .inr ⟨x', y', n, hrun⟩

/-! ### The stack -/

/-- Setting a slot changes no other one; a slot outside the stack stays 0. -/
theorem State.slot_changed_of_set {s t : State} {k : Nat} {w : Word} (h : t.stack = s.stack.set k w) {j : Nat}
    (hne : t.slot j ≠ s.slot j) : j = k ∧ t.slot j = w := by
  simp only [State.slot, h, List.getD_eq_getElem?_getD] at hne ⊢
  by_cases hj : k = j
  · subst hj
    by_cases hk : k < s.stack.length
    · exact ⟨rfl, by simp [hk]⟩
    · simp [hk] at hne
  · simp [hj] at hne

/-- Settles O16: a completed instruction keeps the stack, or is a call that pushes or a return that pops. -/
theorem onlyCallAndReturnTouchTheStack : Obligations.OnlyCallAndReturnTouchTheStack := by
  intro s t hstep
  obtain ⟨_, _, _, _, rfl⟩ | ⟨i, u, hrun, hc, rfl⟩ := step_keeps_or_completes hstep
  · exact ⟨absurd rfl, fun _ => absurd rfl⟩
  · rw [State.endStep_sp]
    obtain ⟨hsp, hstack⟩ | ⟨⟨nnn, rfl⟩, -, hsp, hstack⟩ | ⟨rfl, hsp, hstack⟩ := hc.stack <;>
      replace hstack := u.endStep_stack.trans hstack
    · exact ⟨absurd hsp, fun j => absurd (State.slot_congr hstack j)⟩
    · exact ⟨fun _ => .inl ⟨⟨nnn, hrun⟩, hsp⟩, fun j hne => ⟨⟨nnn, hrun⟩, State.slot_changed_of_set hstack hne⟩⟩
    · exact ⟨fun _ => .inr ⟨hrun, hsp⟩, fun j => absurd (State.slot_congr hstack j)⟩

end Sys2Proof.Machine
end

section
/-! PROOFS. The font survives every schedule (O23), and who writes memory (O18; 20_memory.md). -/

namespace Sys2Proof.Machine

/-! ### The parameters stay -/

theorem step_params {s t : State} (h : step s = .next t) : t.params = s.params := by
  obtain ⟨_, _, _, _, rfl⟩ | ⟨i, u, -, hc, rfl⟩ := step_keeps_or_completes h
  · rfl
  · exact u.endStep_params.trans hc.params

theorem State.stepWith_params (s : State) (rnd : Byte) : (s.stepWith rnd).2.params = s.params := by
  obtain ⟨t, ht⟩ := step_next { s with rnd := rnd }
  rw [State.stepWith_of_step ht]
  exact (step_params ht :)

theorem State.load_params (s : State) (offset : Nat) (bytes : Option (List Byte)) :
    (s.load offset bytes).2.params = s.params := by
  cases bytes with
  | none => rfl
  | some bytes =>
    simp only [State.load]
    split
    · exact s.storeBytes_params offset bytes
    · rfl

/-- The parameters are no state of the block: no transaction changes them (10_state.md R46). -/
theorem transact_params (tr : Transaction) (s : State) : (transact tr s).2.params = s.params := by
  cases tr with
  | init off => rfl
  | load offset bytes => exact s.load_params offset bytes
  | step rnd => exact s.stepWith_params rnd
  | tick => rfl
  | keyDown k =>
    simp only [transact]
    split <;> rfl
  | keyUp k =>
    simp only [transact]
    split <;> rfl
  | pixel x y =>
    simp only [transact]
    split <;> rfl
  | sound => rfl

/-! ### Schedules -/

theorem transactAll_params (trs : List Transaction) (s : State) : (transactAll trs s).2.params = s.params := by
  induction trs generalizing s with
  | nil => rfl
  | cons tr trs ih => exact (ih _).trans (transact_params tr s)

/-- A schedule whose load offsets meet 00_scope.md R8 keeps the invariant. -/
theorem State.Inv.transactAll {trs : List Transaction} {s : State} (h : s.Inv)
    (hinit : ∀ off : Word, .init off ∈ trs → off.toNat + 1 < 4096) : (Machine.transactAll trs s).2.Inv := by
  induction trs generalizing s with
  | nil => exact h
  | cons tr trs ih =>
    have hfirst : (transact tr s).2.Inv :=
      everyTransactionKeepsTheInvariant tr s h fun off htr => hinit off (htr ▸ List.mem_cons_self)
    exact ih hfirst fun off hoff => hinit off (List.mem_cons_of_mem tr hoff)

/-! ### The font -/

/-- With the font below the program region (00_scope.md R8), `inFont` is true of each of its 80 addresses. -/
theorem inFont_fontOffset_add {p : Params} (hp : p.wf = true) {k : Nat} (hk : k < Config.fontSize) :
    inFont p (p.fontOffset + k) = true := by
  simp only [Params.wf, Params.fontFits, Bool.and_eq_true, decide_eq_true_eq] at hp
  obtain ⟨⟨⟨hfits, -⟩, -⟩, -⟩ := hp
  simp only [inFont, Bool.and_eq_true, decide_eq_true_eq]
  omega

/-- An intact font reads as `INIT` left it. -/
theorem Memory.read_of_fontIntact {p : Params} {m : Memory} (h : Memory.fontIntact p m = true) {a : Nat}
    (ha : inFont p a = true) : Memory.read p m a = initialByte p a := by
  simp only [Memory.fontIntact, List.all_eq_true, Bool.not_eq_true'] at h
  refine Memory.read_unlisted fun c hc hca => ?_
  have hclear := h c hc
  rw [hca, ha] at hclear
  contradiction

/-- The invariant's reading of the font region: the glyph table (20_memory.md R72). -/
theorem State.Inv.memRead_font {s : State} (h : s.Inv) {k : Nat} (hk : k < Config.fontSize) :
    s.memRead (s.params.fontOffset + k) = s.params.fontGlyphs.getD k 0#8 := by
  have hin := inFont_fontOffset_add h.params hk
  calc s.memRead (s.params.fontOffset + k)
    _ = initialByte s.params (s.params.fontOffset + k) := Memory.read_of_fontIntact h.font hin
    _ = s.params.fontGlyphs.getD k 0#8 := by rw [initialByte, if_pos hin, Nat.add_sub_cancel_left]

/-- Settles O23: a schedule keeps the invariant and the parameters, and the invariant says how the font reads. -/
theorem fontSurvivesEverySchedule : Obligations.FontSurvivesEverySchedule := by
  intro trs s h hinit k hk
  have hfont := (h.transactAll hinit).memRead_font hk
  rwa [transactAll_params] at hfont

/-! ### Who writes memory -/

/-- A byte that a run of stores changes is one of the run. -/
theorem State.within_of_memRead_storeBytes_ne {s : State} {a k : Nat} {bs : List Byte}
    (hne : (s.storeBytes a bs).memRead k ≠ s.memRead k) : a ≤ k ∧ k < a + bs.length := by
  by_contra hout
  exact hne (s.memRead_storeBytes_outside a bs (by omega))

/-- A byte that a completed instruction changes is one of those it stores from `I` on, and passed the write check. -/
theorem Completes.stores_of_memRead_ne {i : Instr} {s u : State} (hc : Completes i s u) {a : Nat}
    (hne : u.memRead a ≠ s.memRead a) :
    s.indexAddr ≤ a ∧ a < s.indexAddr + storedBytes i ∧ writeFault s.params a = none := by
  obtain ⟨bs, hmem, hlen, hw⟩ := hc.memory
  have hread : u.memRead a = (s.storeBytes s.indexAddr bs).memRead a :=
    State.memRead_congr hmem (by rw [hc.params, State.storeBytes_params]) a
  obtain ⟨hlow, hhigh⟩ := State.within_of_memRead_storeBytes_ne (hread ▸ hne)
  have hcheck := hw (a - s.indexAddr) (by omega)
  rw [Nat.add_sub_cancel' hlow] at hcheck
  exact ⟨hlow, hlen ▸ hhigh, hcheck⟩

/-- Settles O18: an instruction that completed changes only bytes it stores, and a step without one changes none. -/
theorem onlyStoresChangeMemory : Obligations.OnlyStoresChangeMemory := by
  intro s t a hstep hne
  obtain ⟨_, _, _, _, rfl⟩ | ⟨i, u, hrun, hc, rfl⟩ := step_keeps_or_completes hstep
  · exact absurd rfl hne
  · rw [State.memRead_congr u.endStep_mem u.endStep_params] at hne
    obtain ⟨hlow, hhigh, hcheck⟩ := hc.stores_of_memRead_ne hne
    obtain ⟨hbound, hfont⟩ := writeFault_eq_none_iff.mp hcheck
    exact ⟨i, hrun, hlow, hhigh, hbound, hfont⟩

end Sys2Proof.Machine
end

section
/-! PROOFS. The opcode map (30_encoding.md): decoding what was encoded (O1) and back (O2), the rows (O3), the
decode-error words (O4), words written out (O5). -/

namespace Sys2Proof

open Sys2Proof.Machine (decodeError_word)

/-! ### Decoding what was encoded -/

/-- Decoding reads each operand back from the field its format (30_encoding.md R103) wrote it to: one case per
format. -/
theorem decode_encode (i : Instr) : decode (encode i) = .instr i := by
  cases i with
  | cls | ret => rfl
  | jp | call | ldINnn | jpV0 => simp [encode, decode, Word.group_nnn, Word.fieldNnn_nnn]
  | seVxNn | sneVxNn | ldVxNn | addVxNn | rnd =>
    simp [encode, decode, Word.group_xnn, Word.fieldX_xnn, Word.fieldNn_xnn]
  | drw => simp [encode, decode, Word.group_xyn, Word.fieldX_xyn, Word.fieldY_xyn, Word.fieldN_xyn]
  | seVxVy | sneVxVy | ldVxVy | or | and | xor | addVxVy | sub | shr | subn | shl =>
    simp [encode, decode, decodeGroup5, decodeGroup8, decodeGroup9, Word.group_xyn, Word.fieldX_xyn, Word.fieldY_xyn,
      Word.fieldN_xyn]
  | skp | sknp | ldVxDt | ldVxK | ldDtVx | ldStVx | addIVx | ldFVx | ldBVx | ldMemVx | ldVxMem =>
    simp [encode, decode, decodeGroupE, decodeGroupF, Word.group_xnn, Word.fieldX_xnn, Word.fieldNn_xnn]

/-- Settles O1, format by format. -/
theorem decodeOfEncodeIsTheInstruction : Obligations.DecodeOfEncodeIsTheInstruction :=
  fun i _ => decode_encode i

/-- Settles O2, group by group. -/
theorem encodeOfDecodeIsTheWord : Obligations.EncodeOfDecodeIsTheWord :=
  fun _ _ => encode_of_decode

/-! ### The rows -/

/-! Fields of a row's pattern, which R104 writes as a number. -/

theorem Word.group_ofNat (k : Nat) : Word.group (BitVec.ofNat 16 k) = BitVec.ofNat 4 (k / 4096) := by
  apply BitVec.eq_of_toNat_eq
  simp only [Word.group, BitVec.extractLsb'_toNat, BitVec.toNat_ofNat, Nat.shiftRight_eq_div_pow]
  omega

theorem Word.fieldN_ofNat (k : Nat) : Word.fieldN (BitVec.ofNat 16 k) = BitVec.ofNat 4 k := by
  apply BitVec.eq_of_toNat_eq
  simp only [Word.fieldN, BitVec.extractLsb'_toNat, BitVec.toNat_ofNat, Nat.shiftRight_zero]
  omega

theorem Word.fieldNn_ofNat (k : Nat) : Word.fieldNn (BitVec.ofNat 16 k) = BitVec.ofNat 8 k := by
  apply BitVec.eq_of_toNat_eq
  simp only [Word.fieldNn, BitVec.extractLsb'_toNat, BitVec.toNat_ofNat, Nat.shiftRight_zero]
  omega

/-- What the mask of the formats `nnn`, `xnn` and `xyn` keeps of a word. -/
theorem Word.group_of_mask {w p : Word} (h : w &&& 0xF000#16 = p) : Word.group w = Word.group p := by
  rw [← h, ← Word.eq_group_nnn w, Laws.mask_nnn, Word.group_nnn, Word.group_nnn]

/-- What the mask of the format `xyn_sub` keeps of a word. -/
theorem Word.group_fieldN_of_mask {w p : Word} (h : w &&& 0xF00F#16 = p) :
    Word.group w = Word.group p ∧ Word.fieldN w = Word.fieldN p := by
  rw [← h, ← Word.eq_group_x_y_n w, Laws.mask_xyn_sub]
  simp only [Word.group_xyn, Word.fieldN_xyn, and_self]

/-- What the mask of the format `x_sub` keeps of a word. -/
theorem Word.group_fieldNn_of_mask {w p : Word} (h : w &&& 0xF0FF#16 = p) :
    Word.group w = Word.group p ∧ Word.fieldNn w = Word.fieldNn p := by
  rw [← h, ← Word.eq_group_x_nn w, Laws.mask_x_sub]
  simp only [Word.group_xnn, Word.fieldNn_xnn, and_self]

/-- A word that fits a row decodes to an instruction of that row: one case per mask of R104. -/
theorem decode_of_fits {w : Word} (i : Instr) (h : w &&& (opcodeRow i).mask = (opcodeRow i).pattern) :
    ∃ j, decode w = .instr j ∧ opcodeRow j = opcodeRow i := by
  cases i with
  | cls | ret =>
    obtain rfl : w = _ := BitVec.and_allOnes.symm.trans h
    exact ⟨_, rfl, rfl⟩
  | jp | call | seVxNn | sneVxNn | ldVxNn | addVxNn | ldINnn | jpV0 | rnd | drw =>
    simp [decode, Word.group_of_mask h, opcodeRow, Word.group_ofNat]
  | seVxVy | sneVxVy | ldVxVy | or | and | xor | addVxVy | sub | shr | subn | shl =>
    obtain ⟨hg, hn⟩ := Word.group_fieldN_of_mask h
    simp [decode, decodeGroup5, decodeGroup8, decodeGroup9, hg, hn, opcodeRow, Word.group_ofNat, Word.fieldN_ofNat]
  | skp | sknp | ldVxDt | ldVxK | ldDtVx | ldStVx | addIVx | ldFVx | ldBVx | ldMemVx | ldVxMem =>
    obtain ⟨hg, hb⟩ := Word.group_fieldNn_of_mask h
    simp [decode, decodeGroupE, decodeGroupF, hg, hb, opcodeRow, Word.group_ofNat, Word.fieldNn_ofNat]

/-- Whatever the constructor, the encoding fits its instruction's row. -/
theorem Laws.RowMatch.statement (i : Instr) : Statement i := by
  cases i
  exacts [cls, ret, jp _, call _, seVxNn _ _, sneVxNn _ _, seVxVy _ _, ldVxNn _ _, addVxNn _ _, ldVxVy _ _, or _ _,
    and _ _, xor _ _, addVxVy _ _, sub _ _, shr _ _, subn _ _, shl _ _, sneVxVy _ _, ldINnn _, jpV0 _, rnd _ _,
    drw _ _ _, skp _, sknp _, ldVxDt _, ldVxK _, ldDtVx _, ldStVx _, addIVx _, ldFVx _, ldBVx _, ldMemVx _, ldVxMem _]

theorem opcodeRow_mem (i : Instr) : opcodeRow i ∈ opcodeRows := by
  cases i <;> simp [opcodeRows, rowInstrs, rowInstrsLow, rowInstrsMiddle, rowInstrsHigh, opcodeRow]

/-- No word fits two rows: it decodes to an instruction of either. -/
theorem opcodeRow_eq_of_fits {w : Word} {i j : Instr} (hi : w &&& (opcodeRow i).mask = (opcodeRow i).pattern)
    (hj : w &&& (opcodeRow j).mask = (opcodeRow j).pattern) : opcodeRow i = opcodeRow j := by
  obtain ⟨i', hdi, hri⟩ := decode_of_fits i hi
  obtain ⟨j', hdj, hrj⟩ := decode_of_fits j hj
  obtain rfl : i' = j' := Decoded.instr.inj (hdi.symm.trans hdj)
  exact hri.symm.trans hrj

/-- Settles O3: fitting a row and decoding to an instruction of it are the same. -/
theorem everyWordFitsOneRowOrIsADecodeError : Obligations.EveryWordFitsOneRowOrIsADecodeError := by
  refine ⟨rfl, by decide, fun w r r' hr hr' h h' => ?_, fun w => ?_⟩
  · obtain ⟨i, -, rfl⟩ := List.mem_map.mp hr
    obtain ⟨j, -, rfl⟩ := List.mem_map.mp hr'
    exact opcodeRow_eq_of_fits h h'
  · cases hd : decode w with
    | instr i => exact .inl ⟨i, rfl, opcodeRow_mem i, encode_of_decode hd ▸ Laws.RowMatch.statement i⟩
    | decodeError u =>
      obtain rfl := decodeError_word hd
      refine .inr ⟨rfl, fun r hr h => ?_⟩
      obtain ⟨i, -, rfl⟩ := List.mem_map.mp hr
      obtain ⟨j, hj, -⟩ := decode_of_fits i h
      exact Decoded.noConfusion (hd.symm.trans hj)

/-! ### The decode-error words -/

theorem decodeGroup0_eq_decodeError_iff {w : Word} :
    decodeGroup0 w = .decodeError w ↔ w ≠ 0x00E0#16 ∧ w ≠ 0x00EE#16 := by
  unfold decodeGroup0
  split_ifs <;> simp_all

theorem decodeGroup5_eq_decodeError_iff {w : Word} : decodeGroup5 w = .decodeError w ↔ Word.fieldN w ≠ 0x0#4 := by
  simp [decodeGroup5]

theorem decodeGroup8_eq_decodeError_iff {w : Word} : decodeGroup8 w = .decodeError w ↔
    Word.fieldN w ∈ [0x8#4, 0x9#4, 0xA#4, 0xB#4, 0xC#4, 0xD#4, 0xF#4] := by
  unfold decodeGroup8
  split
  case h_10 =>
    simp only [imp_false, List.mem_cons, List.not_mem_nil, or_false, true_iff] at *
    bv_omega
  all_goals simp [*]

theorem decodeGroup9_eq_decodeError_iff {w : Word} : decodeGroup9 w = .decodeError w ↔ Word.fieldN w ≠ 0x0#4 := by
  simp [decodeGroup9]

theorem decodeGroupE_eq_decodeError_iff {w : Word} :
    decodeGroupE w = .decodeError w ↔ Word.fieldNn w ∉ [0x9E#8, 0xA1#8] := by
  unfold decodeGroupE
  split <;> simp_all

theorem decodeGroupF_eq_decodeError_iff {w : Word} : decodeGroupF w = .decodeError w ↔
    Word.fieldNn w ∉ [0x07#8, 0x0A#8, 0x15#8, 0x18#8, 0x1E#8, 0x29#8, 0x33#8, 0x55#8, 0x65#8] := by
  unfold decodeGroupF
  split <;> simp_all

/-- Settles O4: the group picks its line of the table, and a group without one has no decode-error word. -/
theorem decodeErrorWordsByGroup : Obligations.DecodeErrorWordsByGroup := by
  intro w
  unfold decode
  split
  case h_1 hg => simp [hg, decodeGroup0_eq_decodeError_iff]
  case h_6 hg => simp [hg, decodeGroup5_eq_decodeError_iff]
  case h_9 hg => simp [hg, decodeGroup8_eq_decodeError_iff]
  case h_10 hg => simp [hg, decodeGroup9_eq_decodeError_iff]
  case h_15 hg => simp [hg, decodeGroupE_eq_decodeError_iff]
  case h_16 =>
    have hg : Word.group w = 0xF#4 := by simp only [imp_false] at *; bv_omega
    simp [hg, decodeGroupF_eq_decodeError_iff]
  all_goals simp [*]

/-- Settles O5, word by word. -/
theorem wordsOfTheSpecDecode : Obligations.WordsOfTheSpecDecode := by
  unfold Obligations.WordsOfTheSpecDecode
  decide

end Sys2Proof
end

section
/-! PROOFS. Fetch and decode (40_fetch_decode.md): the step runs what it decoded (O6, O7), a decode error (O8), the
random byte (O11), who writes `pc` (O14) and the timers (O15). -/

namespace Sys2Proof.Machine

/-! ### The random byte

One lemma per operation of Ops.lean whose definition branches or recurses: it does the same whatever the byte. -/

/-- The state with another random byte, as `STEP(rnd)` starts from it (`State.stepWith`). -/
def State.setRnd (s : State) (b : Byte) : State := { s with rnd := b }

@[simp] theorem State.setRnd_pc (s : State) (b : Byte) : (s.setRnd b).pc = s.pc := rfl

theorem State.complete_setRnd (s : State) (b : Byte) : (s.setRnd b).complete = s.complete.setRnd b := rfl

theorem State.storeBytes_setRnd (s : State) (b : Byte) (a : Nat) (bs : List Byte) :
    (s.setRnd b).storeBytes a bs = (s.storeBytes a bs).setRnd b := by
  induction bs generalizing s a with
  | nil => rfl
  | cons c bs ih => exact ih (s.memWrite a c) (a + 1)

theorem State.setRegs_setRnd (s : State) (b : Byte) (k : Nat) (bs : List Byte) :
    (s.setRnd b).setRegs k bs = (s.setRegs k bs).setRnd b := by
  induction bs generalizing s k with
  | nil => rfl
  | cons c bs ih => exact ih (s.setV (BitVec.ofNat 4 k) c) (k + 1)

theorem State.push_setRnd (s : State) (b : Byte) (w : Word) :
    (s.setRnd b).push w = (s.push w).map (·.setRnd b) := by
  simp only [State.push, apply_ite (Option.map _)]
  rfl

theorem State.pop_setRnd (s : State) (b : Byte) : (s.setRnd b).pop = s.pop.map (Prod.map id (·.setRnd b)) := by
  simp only [State.pop, apply_ite (Option.map _)]
  rfl

theorem State.skipIf_setRnd (s : State) (b : Byte) (c : Bool) : (s.setRnd b).skipIf c = (s.skipIf c).setRnd b := by
  cases c <;> rfl

theorem State.checked_setRnd (s next : State) (b : Byte) (failed : Option FatalKind) (i : Instr) :
    (s.setRnd b).checked failed i (next.setRnd b) = (s.checked failed i next).setRnd b := by
  cases failed <;> rfl

theorem State.endStep_setRnd (s : State) (b : Byte) : (s.setRnd b).endStep = s.endStep.setRnd b := by
  simp only [State.endStep, apply_ite (State.setRnd · b)]
  rfl

/-- Every instruction but CXNN carries the random byte along and does not read it (42_alu.md R222), since each operation
it is made of does so. -/
theorem exec_setRnd {i : Instr} {s u : State} (hi : ∀ x nn, i ≠ .rnd x nn) (h : exec i s = .next u) (b : Byte) :
    exec i (s.setRnd b) = .next (u.setRnd b) := by
  cases i <;> obtain rfl := Host.Outcome.next.inj h
  case rnd x nn => exact absurd rfl (hi x nn)
  case ret =>
    simp only [exec, execRet, State.pop_setRnd]
    cases s.pop <;> rfl
  case call =>
    simp only [exec, execCall, State.push_setRnd, State.setRnd_pc]
    cases s.push s.pc <;> rfl
  case ldVxK =>
    simp only [exec, execLdVxK, apply_ite (State.setRnd · b)]
    rfl
  case seVxNn | sneVxNn | seVxVy | sneVxVy | skp | sknp =>
    exact congrArg (Host.Outcome.next ·.complete) (s.skipIf_setRnd b _)
  case drw x y n => exact congrArg _ (s.checked_setRnd (s.draw x y n).complete b _ _)
  case ldBVx | ldMemVx =>
    simp only [exec, execLdBVx, execLdMemVx, State.storeBytes_setRnd, State.complete_setRnd]
    exact congrArg _ (s.checked_setRnd _ b _ _)
  case ldVxMem =>
    simp only [exec, execLdVxMem, State.setRegs_setRnd, State.complete_setRnd]
    exact congrArg _ (s.checked_setRnd _ b _ _)
  all_goals rfl

/-- Settles O11: each way of a step stays the same under another byte, `Execute` by `exec_setRnd`. -/
theorem stepIsTotalAndOnlyRndReadsTheRandomByte : Obligations.StepIsTotalAndOnlyRndReadsTheRandomByte := by
  intro s
  obtain ⟨t, ht⟩ := step_next s
  refine ⟨t, ht, fun hno b => ?_⟩
  change step (s.setRnd b) = .next (t.setRnd b)
  obtain ⟨r, hr, rfl⟩ | ⟨hf, hfetch, rfl⟩ | ⟨w, hw, hd, rfl⟩ | ⟨w, i, u, hw, hd, hu, rfl⟩ := step_cases ht
  · exact step_of_faulted hr
  · exact step_of_fetchFault hf hfetch
  · rw [← State.endStep_setRnd]
    exact step_of_decodeError hw hd
  · rw [← State.endStep_setRnd]
    exact step_of_instr hw hd (exec_setRnd (fun x nn hi => hno x nn ⟨w, hw, hi ▸ hd⟩) hu b)

/-! ### The step runs what it decoded -/

theorem willFetch_of_lt {s : State} (hf : s.fault = none) (hpc : s.pc.toNat + 1 < 4096) :
    s.WillFetch (s.memRead s.pc.toNat ++ s.memRead (s.pc.toNat + 1)) :=
  ⟨hf, fetchWord_of_lt hpc⟩

/-- No instruction writes the parameters (10_state.md R46). -/
theorem exec_params {i : Instr} {s u : State} (h : exec i s = .next u) : u.params = s.params := by
  obtain hc | ⟨kind, rfl, -⟩ := exec_cases h
  · exact hc.params
  · rfl

/-- The end of a step as R343 says it (45_input.md). -/
theorem State.endStep_eq_ite (s : State) : s.endStep =
    if s.params.latchClearOnStep = true ∧ s.fault = none then { s with latchValid := false } else s := by
  simp only [State.endStep, Bool.and_eq_true, Option.isNone_iff_eq_none]

/-- Settles O6: `Execute` on the advanced state, then the end of the step, which reads parameters that no instruction
writes. -/
theorem stepRunsTheDecodedInstruction : Obligations.StepRunsTheDecodedInstruction := by
  intro s i hf hpc hd
  obtain ⟨t, ht⟩ := exec_next i s.advance
  refine ⟨t, ht, ?_⟩
  have hparams : t.params = s.params := (exec_params ht :)
  rw [step_of_instr (willFetch_of_lt hf hpc) hd ht, State.endStep_eq_ite, hparams]

/-- Settles O7: on either side of the fetch bound, the lemma about that way of a step says what `pc` becomes. -/
theorem fetchReadsBigEndianAndAdvances : Obligations.FetchReadsBigEndianAndAdvances := by
  intro s hf
  refine ⟨fun hout => ?_, fun hpc => ?_⟩
  · exact ⟨_, step_of_fetchFault hf (fetchWord_eq_none_iff.mpr hout), rfl, rfl, rfl⟩
  · have hw := willFetch_of_lt hf hpc
    refine ⟨hw.2, advance_pc_toNat hpc, fun i t hd ht => ?_, fun w hd => ?_⟩
    · exact ⟨_, step_of_instr hw hd ht, t.endStep_pc⟩
    · obtain rfl := decodeError_word hd
      exact ⟨_, step_of_decodeError hw hd, State.endStep_pc _⟩

/-- Settles O8: the step is the fetch's advance, the report, and the end of the step, each of which keeps the rest. -/
theorem decodeErrorOnlyAdvancesPc : Obligations.DecodeErrorOnlyAdvancesPc := by
  intro s w hw hd
  refine ⟨_, step_of_decodeError hw hd, ?_⟩
  have hpc := advance_pc_toNat (pc_lt_of_willFetch hw)
  refine ⟨by simpa using hpc, by simp, by simpa using hw.1, .of_eq (by simp) [], by simp, .of_eq (by simp) (by simp),
    .of_eq (by simp) (by simp), ⟨by simp, by simp⟩, .of_eq (by simp), State.keyDown_congr (by simp), by simp,
    by simp [hw.1], by simp, by simp, by simp⟩

/-! ### Who writes `pc` and the timers -/

/-- A step that runs `i` is `Execute` of `i` on the advanced state, and the end of the step. -/
theorem exec_of_step {s t : State} {i : Instr} (hrun : s.WillRun i) (h : step s = .next t) :
    ∃ u, exec i s.advance = .next u ∧ t = u.endStep := by
  obtain ⟨w, hw, hd⟩ := hrun
  obtain ⟨u, hu⟩ := exec_next i s.advance
  exact ⟨u, hu, Host.Outcome.next.inj (h.symm.trans (step_of_instr hw hd hu))⟩

/-- Settles O14: without a fatal error the instruction completed, and a completed one outside the list keeps the
advanced `pc`. -/
theorem onlyListedInstructionsRedirectThePc : Obligations.OnlyListedInstructionsRedirectThePc := by
  intro s t i hrun hwrites hstep hf
  have hlt : s.pc.toNat + 1 < 4096 := by
    obtain ⟨w, hw, -⟩ := hrun
    exact pc_lt_of_willFetch hw
  obtain ⟨u, hu, rfl⟩ := exec_of_step hrun hstep
  obtain hc | ⟨kind, rfl, -⟩ := exec_cases hu
  · rw [State.endStep_pc, hc.pc hwrites, State.advance_pc, advance_pc_toNat hlt]
  · rw [State.endStep_raiseIn] at hf
    contradiction

/-- Settles O15: a completed instruction keeps a timer or moves a register to it, and a step without one keeps both. -/
theorem stepsNeverCountTimers : Obligations.StepsNeverCountTimers := by
  intro s t hstep
  obtain ⟨_, _, _, _, rfl⟩ | ⟨i, u, hrun, hc, rfl⟩ := step_keeps_or_completes hstep
  · exact ⟨absurd rfl, absurd rfl⟩
  · rw [State.endStep_dt, State.endStep_st]
    refine ⟨fun hne => ?_, fun hne => ?_⟩
    · obtain ⟨x, rfl, hx⟩ := hc.dt.resolve_left hne
      exact ⟨x, hrun, hx⟩
    · obtain ⟨x, rfl, hx⟩ := hc.st.resolve_left hne
      exact ⟨x, hrun, hx⟩

end Sys2Proof.Machine
end

section
/-! PROOFS. Control flow (41_control_flow.md): jumps (O24, O30), call and return (O25, O26, O27), skips (O28, O29). -/

namespace Sys2Proof.Machine

/-! ### The next fetch after a transfer of control -/

/-- A `pc` without two bytes of memory faults at the fetch (40_fetch_decode.md R141). -/
theorem step_fault_of_pc {s : State} {a : Word} (hf : s.fault = none) (hpc : s.pc = a) (ha : 4096 ≤ a.toNat + 1) :
    ∃ u, step s = .next u ∧ u.fault = some ⟨.fetchBounds, a, none⟩ := by
  subst hpc
  exact ⟨_, step_of_fetchFault hf (fetchWord_eq_none_iff.mpr ha), rfl⟩

/-- What runs next depends on the fault, `pc` and memory only. -/
theorem State.WillRun.of_eq {s t : State} {i : Instr} (h : s.WillRun i) (hf : t.fault = s.fault) (hpc : t.pc = s.pc)
    (hm : t.mem = s.mem) (hp : t.params = s.params) : t.WillRun i := by
  obtain ⟨w, ⟨hfault, hfetch⟩, hd⟩ := h
  refine ⟨w, ⟨hf.trans hfault, Eq.trans ?_ hfetch⟩, hd⟩
  simp only [State.fetchWord, hpc, State.memRead_congr hm hp]

/-! ### Jumps -/

/-- Writing `pc` and completing is a transfer of control. -/
theorem onlyPc_setPc (s : State) (pc : Word) : OnlyPc s { s with pc := pc }.complete where
  regs := .of_eq rfl []
  index := rfl
  memory := .of_eq rfl rfl
  rest := .of_eq rfl rfl rfl rfl rfl rfl rfl rfl rfl rfl rfl rfl
  status := rfl

/-- A jump in execution (R174). -/
theorem exec_jp (nnn : Addr12) (s : State) : exec (.jp nnn) s = .next { s with pc := nnn.setWidth 16 }.complete := rfl

/-- Settles O24: the step after the jump fetches at its target, out of bounds for 0xFFF, the same word for a jump to
itself. -/
theorem jumpSetsThePc : Obligations.JumpSetsThePc := by
  intro nnn s
  refine ⟨?_, _, exec_jp nnn s, rfl, onlyPc_setPc s _, fun hnnn hf => ?_, fun hrun hpc => ?_⟩
  · exact word_nnn 0x1#4 nnn ▸ decode_encode (.jp nnn)
  · subst hnnn
    exact step_fault_of_pc hf rfl (by decide)
  · obtain ⟨w, hw, hd⟩ := hrun
    refine ⟨_, step_of_instr hw hd (exec_jp nnn s.advance), by simp [hpc], by simp, ?_⟩
    exact State.WillRun.of_eq ⟨w, hw, hd⟩ (by simp) (by simp [hpc]) (by simp) (by simp)

/-- A byte and an address sum without a carry out of the word, to at most 0x10FE (10_state.md R36). -/
theorem toNat_zextByte_add_zextAddr (b : Byte) (nnn : Addr12) :
    (zextByte b + zextAddr nnn).toNat = b.toNat + nnn.toNat ∧ (zextByte b + zextAddr nnn).toNat ≤ 0x10FE := by
  simp only [zextByte, zextAddr, BitVec.toNat_add, BitVec.toNat_setWidth]
  omega

/-- Settles O30: a transfer of control to the exact sum. -/
theorem computedJumpAddsV0 : Obligations.ComputedJumpAddsV0 := by
  intro nnn s
  obtain ⟨hsum, hbound⟩ := toNat_zextByte_add_zextAddr (s.getV 0x0#4) nnn
  exact ⟨_, rfl, hsum, hbound, onlyPc_setPc s _⟩

/-! ### Call and return -/

/-- A call below the capacity (R175). -/
theorem exec_call_of_lt {s : State} (h : s.sp < s.params.stackCapacity) (nnn : Addr12) : exec (.call nnn) s = .next
    { s with stack := s.stack.set s.sp s.pc, sp := s.sp + 1, pc := nnn.setWidth 16, status := .ok } := by
  obtain ⟨hle, -⟩ | ⟨-, hpush⟩ := push_cases s s.pc
  · omega
  · simp only [exec, execCall, hpush]
    rfl

/-- A call with the stack full (R175, D12). -/
theorem exec_call_of_full {s : State} (h : s.params.stackCapacity ≤ s.sp) (nnn : Addr12) :
    exec (.call nnn) s = .next (s.raiseIn .stackOverflow (.call nnn)) := by
  obtain ⟨-, hpush⟩ | ⟨hlt, -⟩ := push_cases s s.pc
  · simp only [exec, execCall, hpush]
  · omega

/-- A return with an address on the stack (R173). -/
theorem exec_ret_of_pos {s : State} (h : 0 < s.sp) : exec .ret s = .next
    { s with sp := s.sp - 1, pc := s.slot (s.sp - 1), status := .ok } := by
  obtain ⟨hzero, -⟩ | ⟨-, hpop⟩ := pop_cases s
  · omega
  · simp only [exec, execRet, hpop]
    rfl

/-- A return with the stack empty (R173, R171). -/
theorem exec_ret_of_empty {s : State} (h : s.sp = 0) : exec .ret s = .next (s.raiseIn .stackUnderflow .ret) := by
  obtain ⟨-, hpop⟩ | ⟨hpos, -⟩ := pop_cases s
  · simp only [exec, execRet, hpop]
  · omega

/-- A slot that was set reads what was set, inside the stack. -/
theorem State.slot_set_self {s t : State} {k : Nat} {w : Word} (h : t.stack = s.stack.set k w)
    (hk : k < s.stack.length) : t.slot k = w := by
  simp [State.slot, h, hk]

/-- Settles O25: the slot at `SP` is set, and `SP` is inside the stack. -/
theorem callPushesTheReturnAddress : Obligations.CallPushesTheReturnAddress := by
  intro nnn s hlen
  refine ⟨fun hlt => ?_, fun hfull => ?_⟩
  · refine ⟨_, exec_call_of_lt hlt nnn, rfl, rfl, ?_, fun j hj => ?_, .of_eq rfl [], rfl, .of_eq rfl rfl, ⟨rfl, rfl⟩,
      .of_eq rfl, .of_eq rfl rfl rfl, rfl, ⟨rfl, rfl, rfl⟩, rfl⟩
    · exact State.slot_set_self (s := s) rfl (hlen ▸ hlt)
    · exact by_contra fun hne => hj (State.slot_changed_of_set (s := s) rfl hne).1
  · exact ⟨_, exec_call_of_full hfull.ge nnn, raisedIn_raiseIn s _ _⟩

/-- Settles O26: a return keeps the whole stack and lowers `SP`. -/
theorem returnPopsThePc : Obligations.ReturnPopsThePc := by
  intro s
  refine ⟨fun hpos => ?_, fun hzero => ?_⟩
  · exact ⟨_, exec_ret_of_pos hpos, Nat.sub_add_cancel hpos, rfl, State.slot_congr rfl, .of_eq rfl [], rfl,
      .of_eq rfl rfl, ⟨rfl, rfl⟩, .of_eq rfl, .of_eq rfl rfl rfl, rfl, ⟨rfl, rfl, rfl⟩, rfl⟩
  · exact ⟨_, exec_ret_of_empty hzero, raisedIn_raiseIn s _ _⟩

/-- Settles O27: the routine returns with `SP` one above the call's, so the return reads the slot the call set. -/
theorem returnComesBackAfterTheCall : Obligations.ReturnComesBackAfterTheCall := by
  intro nnn s hlen hlt
  refine ⟨_, exec_call_of_lt hlt nnn, fun u hsp hstack => ?_⟩
  have hpos : 0 < u.sp := hsp ▸ Nat.succ_pos s.sp
  have hback : u.sp - 1 = s.sp := hsp ▸ rfl
  have hslot : u.slot s.sp = s.pc := State.slot_set_self hstack (hlen ▸ hlt)
  exact ⟨_, exec_ret_of_pos hpos, hback ▸ hslot, hback, rfl⟩

/-! ### Skips -/

/-- A skip is a transfer of control, taken or not. -/
theorem onlyPc_skipIf (s : State) (c : Bool) : OnlyPc s (s.skipIf c).complete := by
  cases c
  · exact onlyPc_setPc s s.pc
  · exact onlyPc_setPc s (s.pc + 2#16)

/-- A skip taken over the last word of memory faults at the next fetch (R176). -/
theorem step_fault_of_skipIf {s : State} {c : Bool} (hpc : s.pc = 0x0FFE#16) (hf : s.fault = none) (hc : c = true) :
    ∃ u, step (s.skipIf c).complete = .next u ∧ u.fault = some ⟨.fetchBounds, 0x1000#16, none⟩ :=
  step_fault_of_pc (by simpa using hf) (by simp [hc, hpc]) (by decide)

/-- Settles O28: both skips are `skipIf` on their comparison. -/
theorem immediateSkips : Obligations.ImmediateSkips := by
  intro x nn s
  refine ⟨?_, ?_, ⟨_, rfl, by simp, onlyPc_skipIf s _, fun hpc hf heq => ?_⟩,
    ⟨_, rfl, by simp, onlyPc_skipIf s _, fun hpc hf hne => ?_⟩⟩
  · exact word_xnn 0x3#4 x nn ▸ decode_encode (.seVxNn x nn)
  · exact word_xnn 0x4#4 x nn ▸ decode_encode (.sneVxNn x nn)
  · exact step_fault_of_skipIf hpc hf (beq_iff_eq.mpr heq)
  · exact step_fault_of_skipIf hpc hf (bne_iff_ne.mpr hne)

/-- The word of a format with a low nibble of 0 (30_encoding.md R103). -/
theorem word_xy0 (g : Nibble) (x y : Reg) :
    g.setWidth 16 <<< 12 ||| x.setWidth 16 <<< 8 ||| y.setWidth 16 <<< 4 = g ++ x ++ y ++ 0x0#4 :=
  BitVec.or_zero.symm.trans (word_xyn g x y 0x0#4)

/-- Settles O29: both skips are `skipIf` on their comparison. -/
theorem registerSkips : Obligations.RegisterSkips := by
  intro x y s
  refine ⟨?_, ?_, ⟨_, rfl, by simp, onlyPc_skipIf s _⟩, ⟨_, rfl, by simp, onlyPc_skipIf s _⟩⟩
  · exact word_xy0 0x5#4 x y ▸ decode_encode (.seVxVy x y)
  · exact word_xy0 0x9#4 x y ▸ decode_encode (.sneVxVy x y)

end Sys2Proof.Machine
end

section
/-! PROOFS. The ALU (42_alu.md): immediates (O31), assignment and logic (O32), sums and differences (O33) and shifts (O34)
with their flag, the random byte (O35). -/

namespace Sys2Proof.Machine

/-! ### Completing with a register written -/

@[simp] theorem State.getV_complete (s : State) (r : Reg) : s.complete.getV r = s.getV r := rfl

/-- Replacing the register file alone is the frame of a register-only instruction. -/
theorem onlyRegs_setFile {s : State} {v : Vector Byte 16} {W : List Reg}
    (hregs : SameRegsExcept W s { s with v := v }.complete) : OnlyRegs W s { s with v := v }.complete where
  regs := hregs
  index := rfl
  pc := rfl
  memory := .of_eq rfl rfl
  rest := .of_eq rfl rfl rfl rfl rfl rfl rfl rfl rfl rfl rfl rfl
  status := rfl

theorem onlyRegs_setV (s : State) (x : Reg) (b : Byte) : OnlyRegs [x] s (s.setV x b).complete :=
  onlyRegs_setFile (.of_setV (u := s) rfl rfl)

theorem onlyRegs_setVFlag (s : State) (x : Reg) (b : Byte) (c : Bool) : OnlyRegs [x, VF] s (s.setVFlag x b c).complete :=
  onlyRegs_setFile (.of_setVFlag (u := s) rfl rfl)

/-- The result stays in `V[x]` unless the flag lands on it (00_scope.md R13). -/
theorem State.getV_setVFlag_result (s : State) {x : Reg} (hx : x ≠ VF) (b : Byte) (c : Bool) :
    (s.setVFlag x b c).getV x = b := by
  rw [State.getV_setVFlag, if_neg hx, if_pos rfl]

/-! ### The flag as a byte -/

theorem flagByte_decide (p : Prop) [Decidable p] : flagByte (decide p) = if p then 1#8 else 0#8 := by
  simp only [flagByte, decide_eq_true_eq]

theorem State.getV_setVFlag_decide (s : State) (x : Reg) (b : Byte) (p : Prop) [Decidable p] :
    (s.setVFlag x b (decide p)).getV VF = if p then 1#8 else 0#8 :=
  (s.getV_setVFlag_flag x b _).trans (flagByte_decide p)

theorem toNat_flagByte (c : Bool) : (flagByte c).toNat = c.toNat := by
  cases c <;> rfl

/-! ### Results as numbers -/

/-- A difference of bytes is the difference modulo 256 (R217, R219). -/
theorem toNat_byte_sub (a b : Byte) : ((a - b).toNat : Int) = (a.toNat - b.toNat : Int) % 256 := by
  rw [BitVec.toNat_sub]
  omega

theorem toNat_shiftedOutRight (a : Byte) : (shiftedOutRight a).toNat = a.toNat % 2 :=
  (Nat.toNat_testBit a.toNat 0).trans (by simp)

theorem toNat_shiftedOutLeft (a : Byte) : (shiftedOutLeft a).toNat = a.toNat / 128 :=
  (Nat.toNat_testBit a.toNat 7).trans (by omega)

/-! ### The obligations -/

/-- Settles O31: the words are those of the format `xnn`, and each meaning writes `V[x]` alone. -/
theorem immediateLoadAndAdd : Obligations.ImmediateLoadAndAdd := by
  intro x nn s
  refine ⟨?_, ?_, ⟨_, rfl, ?_, onlyRegs_setV s x _⟩, ⟨_, rfl, ?_, onlyRegs_setV s x _⟩⟩
  · exact word_xnn 0x6#4 x nn ▸ decode_encode (.ldVxNn x nn)
  · exact word_xnn 0x7#4 x nn ▸ decode_encode (.addVxNn x nn)
  · exact s.getV_setV_same x nn
  · rw [State.getV_complete, State.getV_setV_same, BitVec.toNat_add]

/-- Settles O32: each meaning writes `V[x]` alone. -/
theorem assignAndLogic : Obligations.AssignAndLogic := by
  intro x y s
  have write (b : Byte) : (s.setV x b).complete.getV x = b ∧ OnlyRegs [x] s (s.setV x b).complete :=
    ⟨s.getV_setV_same x b, onlyRegs_setV s x b⟩
  exact ⟨⟨_, rfl, write _⟩, ⟨_, rfl, write _⟩, ⟨_, rfl, write _⟩, ⟨_, rfl, write _⟩⟩

/-- Settles O33: each meaning writes the result and then its comparison into VF. -/
theorem addAndSubtractWithFlag : Obligations.AddAndSubtractWithFlag := by
  intro x y s
  refine ⟨⟨_, rfl, fun hx => ?_, s.getV_setVFlag_decide x _ _, onlyRegs_setVFlag s x _ _⟩,
    ⟨_, rfl, fun hx => ?_, s.getV_setVFlag_decide x _ _, onlyRegs_setVFlag s x _ _⟩,
    ⟨_, rfl, fun hx => ?_, s.getV_setVFlag_decide x _ _, onlyRegs_setVFlag s x _ _⟩⟩
  · rw [State.getV_complete, s.getV_setVFlag_result hx, BitVec.toNat_add]
  · rw [State.getV_complete, s.getV_setVFlag_result hx, toNat_byte_sub]
  · rw [State.getV_complete, s.getV_setVFlag_result hx, toNat_byte_sub]

/-- Settles O34: a shift by one halves or doubles, and bit 0 or bit 7 is the remainder or the quotient it loses. -/
theorem shiftsByOne : Obligations.ShiftsByOne := by
  intro x y s
  refine ⟨⟨_, rfl, fun hx => ?_, ?_, onlyRegs_setVFlag s x _ _⟩, ⟨_, rfl, fun hx => ?_, ?_, onlyRegs_setVFlag s x _ _⟩⟩
  · rw [State.getV_complete, s.getV_setVFlag_result hx, BitVec.toNat_ushiftRight, Nat.shiftRight_eq_div_pow, pow_one]
  · rw [State.getV_complete, State.getV_setVFlag_flag, toNat_flagByte, toNat_shiftedOutRight]
  · rw [State.getV_complete, s.getV_setVFlag_result hx, BitVec.toNat_shiftLeft, Nat.shiftLeft_eq, pow_one, mul_comm]
  · rw [State.getV_complete, State.getV_setVFlag_flag, toNat_flagByte, toNat_shiftedOutLeft]

/-- What CXNN computes (R222). -/
theorem getV_status_of_exec_rnd {x : Reg} {nn : Byte} {s u : State} (h : exec (.rnd x nn) s = .next u) :
    u.getV x = s.rnd &&& nn ∧ u.status = .ok := by
  obtain rfl := Host.Outcome.next.inj h
  exact ⟨s.getV_setV_same x _, rfl⟩

/-- Settles O35: `STEP(b)` puts `b` into the state, which the fetch does not see and CXNN reads. -/
theorem randomByteIsMasked : Obligations.RandomByteIsMasked := by
  intro x nn s
  refine ⟨⟨_, rfl, s.getV_setV_same x _, .of_setV (u := s) rfl rfl, rfl, rfl, .of_eq rfl rfl, .of_eq rfl rfl, ⟨rfl, rfl⟩,
    .of_eq rfl, .of_eq rfl rfl rfl, rfl, rfl, rfl, rfl⟩, fun b hrun => ?_⟩
  have hrunb : (s.setRnd b).WillRun (.rnd x nn) := hrun.of_eq rfl rfl rfl rfl
  obtain ⟨t, ht⟩ := step_next (s.setRnd b)
  obtain ⟨u, hu, rfl⟩ := exec_of_step hrunb ht
  obtain ⟨hvalue, hok⟩ := getV_status_of_exec_rnd hu
  rw [State.stepWith_of_step ht, State.endStep_status, hok]
  exact ⟨rfl, (State.getV_congr u.endStep_v x).trans hvalue⟩

end Sys2Proof.Machine
end

section
/-! PROOFS. Index register and memory (43_index_memory.md): loads of `I` (O36, O37), the two stores (O38, O39), the load
(O40) that reverses one of them (O41), and the check before each memory move (O42). -/

namespace Sys2Proof.Machine

/-! ### The index register -/

/-- Writing `I` and completing is the frame of an instruction that changes `I` alone. -/
theorem onlyIndex_setIreg (s : State) (a : Word) : OnlyIndex s { s with ireg := a }.complete where
  regs := .of_eq rfl []
  pc := rfl
  memory := .of_eq rfl rfl
  rest := .of_eq rfl rfl rfl rfl rfl rfl rfl rfl rfl rfl rfl rfl
  status := rfl

theorem toNat_add_zextByte (a : Word) (b : Byte) : (a + zextByte b).toNat = (a.toNat + b.toNat) % 65536 := by
  simp only [zextByte, BitVec.toNat_add, BitVec.toNat_setWidth]
  omega

/-- The mask of FX29 keeps the low nibble (R262, D11). -/
theorem toNat_and_0x0F (b : Byte) : (b &&& 0x0F#8).toNat = b.toNat % 16 :=
  Nat.and_two_pow_sub_one_eq_mod b.toNat 4

/-- Legal parameters keep every glyph address below the program region (00_scope.md R8), so it is not reduced. -/
theorem toNat_glyphAddr {p : Params} (hp : p.wf = true) (b : Byte) :
    (glyphAddr p b).toNat = p.fontOffset + 5 * (b.toNat % 16) := by
  have hfits : p.fontOffset + 80 ≤ 0x200 := by
    simp only [Params.wf, Params.fontFits, Bool.and_eq_true, decide_eq_true_eq] at hp
    obtain ⟨⟨⟨hfits, -⟩, -⟩, -⟩ := hp
    exact hfits
  rw [glyphAddr, toNat_and_0x0F, BitVec.toNat_ofNat, Nat.mod_eq_of_lt (by omega)]

/-- Settles O36: the word is that of the format `nnn`, and the meaning writes `I` alone. -/
theorem indexLoad : Obligations.IndexLoad := fun nnn s =>
  ⟨word_nnn 0xA#4 nnn ▸ decode_encode (.ldINnn nnn), _, rfl, rfl, onlyIndex_setIreg s _⟩

/-- Settles O37: each meaning writes `I` alone, a sum of words or a glyph's address. -/
theorem indexAddAndGlyphAddress : Obligations.IndexAddAndGlyphAddress := fun x s =>
  ⟨⟨_, rfl, toNat_add_zextByte s.ireg (s.getV x), onlyIndex_setIreg s _⟩,
    ⟨_, rfl, onlyIndex_setIreg s _, fun hp => toNat_glyphAddr hp (s.getV x)⟩⟩

/-! ### The check before a memory move -/

/-- The kind of the first failing address is the one reported (40_fetch_decode.md R152). -/
theorem firstFault_of_first {check : Nat → Option FatalKind} {base n k : Nat} {kind : FatalKind} (hk : k < n)
    (hfail : check (base + k) = some kind) (hpass : ∀ j, j < k → check (base + j) = none) :
    firstFault check base n = some kind := by
  cases hfirst : firstFault check base n with
  | none => simp [firstFault_eq_none_iff.mp hfirst k hk] at hfail
  | some kind' =>
    obtain ⟨k', -, hfail', hpass'⟩ := firstFault_eq_some hfirst
    obtain hlt | rfl | hgt := Nat.lt_trichotomy k k'
    · simp [hpass' k hlt] at hfail
    · exact hfail'.symm.trans hfail
    · simp [hpass k' hgt] at hfail'

/-- Reads raise one kind only, so any address past memory tells what is reported. -/
theorem firstFault_readFault_of_ge {base n k : Nat} (hk : k < n) (h : 4096 ≤ base + k) :
    firstFault readFault base n = some .memBounds := by
  cases hfirst : firstFault readFault base n with
  | none =>
    have hlt : base + k < 4096 := readFault_eq_none_iff.mp (firstFault_eq_none_iff.mp hfirst k hk)
    omega
  | some kind => rw [kind_of_readFault hfirst]

theorem firstFault_readFault_eq_none {base n : Nat} (h : base + n ≤ 4096) : firstFault readFault base n = none :=
  firstFault_eq_none_iff.mpr fun k hk => readFault_eq_none_iff.mpr (show base + k < 4096 by omega)

theorem firstFault_writeFault_eq_none {p : Params} {base n : Nat}
    (h : ∀ k, k < n → base + k < 4096 ∧ inFont p (base + k) = false) : firstFault (writeFault p) base n = none :=
  firstFault_eq_none_iff.mpr fun k hk => writeFault_eq_none_iff.mpr (h k hk)

/-- What a write raises, by where its address lies (20_memory.md R75, R76). -/
theorem writeFault_of_fails {p : Params} {a : Nat} {kind : FatalKind}
    (h : (4096 ≤ a ∧ kind = .memBounds) ∨ (a < 4096 ∧ inFont p a = true ∧ kind = .fontWrite)) :
    writeFault p a = some kind := by
  obtain ⟨hge, rfl⟩ | ⟨hlt, hfont, rfl⟩ := h
  · exact if_pos hge
  · exact (if_neg (Nat.not_le.mpr hlt)).trans (if_pos hfont)

/-! ### Each memory move in execution, past its check and stopped by it -/

theorem exec_ldBVx_of_pass {s : State} (x : Reg) (h : firstFault (writeFault s.params) s.ireg.toNat 3 = none) :
    exec (.ldBVx x) s = .next (s.storeBytes s.ireg.toNat (decimalDigits (s.getV x))).complete := by
  simp only [exec, execLdBVx, State.indexAddr, h, State.checked]

theorem exec_ldMemVx_of_pass {s : State} {x : Reg}
    (h : firstFault (writeFault s.params) s.ireg.toNat (regCount x) = none) :
    exec (.ldMemVx x) s = .next (s.storeBytes s.ireg.toNat (s.getRegs (regCount x))).complete := by
  simp only [exec, execLdMemVx, State.indexAddr, h, State.checked]

theorem exec_ldVxMem_of_pass {s : State} {x : Reg} (h : firstFault readFault s.ireg.toNat (regCount x) = none) :
    exec (.ldVxMem x) s = .next (s.setRegs 0 (s.loadBytes s.ireg.toNat (regCount x))).complete := by
  simp only [exec, execLdVxMem, State.indexAddr, h, State.checked]

/-- A check that failed with `kind` leaves the frame of a raise. -/
theorem raisedIn_checked {s next : State} {failed : Option FatalKind} {kind : FatalKind} {i : Instr}
    (h : failed = some kind) : RaisedIn s (s.checked failed i next) kind i := by
  subst h
  exact raisedIn_raiseIn s kind i

/-- Settles O42: each meaning is a check whose first failing address the hypotheses give. -/
theorem firstFailingAddressIsRaised : Obligations.FirstFailingAddressIsRaised := by
  intro s x y n k
  refine ⟨fun kind hfail hpass => ?_, fun hge => ⟨fun hk => ?_, fun hk => ?_⟩⟩
  · have hfirst {n : Nat} (hk : k < n) : firstFault (writeFault s.params) s.ireg.toNat n = some kind :=
      firstFault_of_first hk (writeFault_of_fails hfail) fun j hj => writeFault_eq_none_iff.mpr (hpass j hj)
    exact ⟨fun hk => ⟨_, rfl, raisedIn_checked (hfirst hk)⟩,
      fun hk => ⟨_, rfl, raisedIn_checked (hfirst (Nat.lt_succ_of_le hk))⟩⟩
  · exact ⟨_, rfl, raisedIn_checked (firstFault_readFault_of_ge (Nat.lt_succ_of_le hk) hge)⟩
  · exact ⟨_, rfl, raisedIn_checked (firstFault_readFault_of_ge hk hge)⟩

/-! ### The stores -/

@[simp] theorem State.memRead_complete (s : State) (a : Nat) : s.complete.memRead a = s.memRead a := rfl

/-- A run of stores is the frame of its bytes. -/
theorem onlyBytes_storeBytes (s : State) (a : Nat) (bs : List Byte) :
    OnlyBytes a bs.length s (s.storeBytes a bs).complete where
  regs := .of_eq (by simp) []
  index := by simp
  pc := by simp
  memory := fun _ hb => s.memRead_storeBytes_outside a bs hb
  rest := by apply SameRest.of_eq <;> simp
  status := rfl

/-- A run of stores that passed its check reads back, byte by byte (20_memory.md R85). -/
theorem State.memRead_storeBytes_of_pass {s : State} {a : Nat} {bs : List Byte} (hwf : Memory.wf s.params s.mem = true)
    (hpass : firstFault (writeFault s.params) a bs.length = none) {j : Nat} (hj : j < bs.length) :
    (s.storeBytes a bs).memRead (a + j) = bs.getD j 0#8 := by
  obtain ⟨rfl | hfit, -⟩ := fits_of_writeFault (firstFault_eq_none_iff.mp hpass)
  · simp at hj
  · exact State.memRead_storeBytes_inside hwf a bs hfit hj

/-- The digits of a byte as numbers (R264): none is cut off when it becomes a byte. -/
theorem toNat_decimalDigits (b : Byte) :
    ((decimalDigits b).getD 0 0#8).toNat = b.toNat / 100 ∧ ((decimalDigits b).getD 1 0#8).toNat = b.toNat / 10 % 10 ∧
      ((decimalDigits b).getD 2 0#8).toNat = b.toNat % 10 := by
  have fits {d : Nat} (hd : d < 256) : (BitVec.ofNat 8 d).toNat = d := Nat.mod_eq_of_lt hd
  exact ⟨fits (by omega), fits (by omega), fits (by omega)⟩

/-- Settles O38: the three bytes read back as the digits, which make up the value. -/
theorem decimalDigitsAreStored : Obligations.DecimalDigitsAreStored := by
  intro x s hwf hfit
  have hpass : firstFault (writeFault s.params) s.ireg.toNat 3 = none := firstFault_writeFault_eq_none hfit
  have hread {j : Nat} (hj : j < 3) : (s.storeBytes s.ireg.toNat (decimalDigits (s.getV x))).complete.memRead
      (s.ireg.toNat + j) = (decimalDigits (s.getV x)).getD j 0#8 := State.memRead_storeBytes_of_pass hwf hpass hj
  obtain ⟨hhundreds, htens, hones⟩ := toNat_decimalDigits (s.getV x)
  rw [← hread (by decide)] at hhundreds htens hones
  rw [Nat.add_zero] at hhundreds
  exact ⟨_, exec_ldBVx_of_pass x hpass, hhundreds, htens, hones, by omega,
    onlyBytes_storeBytes s _ (decimalDigits (s.getV x))⟩

/-- Settles O39: byte `r` of the run is `V[r]`. -/
theorem registersAreStored : Obligations.RegistersAreStored := by
  intro x s hwf hfit
  have hpass : firstFault (writeFault s.params) s.ireg.toNat (regCount x) = none :=
    firstFault_writeFault_eq_none fun k hk => hfit k (Nat.le_of_lt_succ hk)
  have hframe := onlyBytes_storeBytes s s.ireg.toNat (s.getRegs (regCount x))
  rw [State.length_getRegs] at hframe
  refine ⟨_, exec_ldMemVx_of_pass hpass, fun r hr => ?_, hframe⟩
  have hlt : r.toNat < regCount x := Nat.lt_succ_of_le hr
  rw [State.memRead_complete, State.memRead_storeBytes_of_pass hwf (by simpa using hpass) (by simpa using hlt),
    State.getRegs_getD s hlt, BitVec.ofNat_toNat, BitVec.setWidth_eq]

/-! ### The load -/

/-- Loading V0..Vx from `a` on puts the byte at `a + r` into `V[r]` and keeps the registers above `x` (R266). -/
theorem State.getV_setRegs_loadBytes (s : State) (a : Nat) (x r : Reg) :
    (s.setRegs 0 (s.loadBytes a (regCount x))).getV r =
      if r.toNat ≤ x.toNat then s.memRead (a + r.toNat) else s.getV r := by
  have hcount : regCount x ≤ 16 := x.isLt
  rw [State.getV_setRegs _ _ _ (by simpa using hcount), State.length_loadBytes]
  by_cases hr : r.toNat < regCount x
  · rw [if_pos (by omega), if_pos (Nat.le_of_lt_succ hr), Nat.sub_zero, State.loadBytes_getD s a hr]
  · rw [if_neg (by omega), if_neg (fun hle => hr (Nat.lt_succ_of_le hle))]

/-- Settles O40: register `r` of the run is the byte at `I + r`. -/
theorem registersAreLoaded : Obligations.RegistersAreLoaded := by
  intro x s hlt
  have hread := s.getV_setRegs_loadBytes s.ireg.toNat x
  refine ⟨_, exec_ldVxMem_of_pass (firstFault_readFault_eq_none hlt), fun r hr => (hread r).trans (if_pos hr),
    fun r hr => (hread r).trans (if_neg (Nat.not_le.mpr hr)), by simp, by simp, .of_eq (by simp) (by simp), ?_, rfl⟩
  apply SameRest.of_eq <;> simp

/-- Settles O41: the load reads the bytes that the store left in the same memory. -/
theorem loadRestoresWhatStoreSaved : Obligations.LoadRestoresWhatStoreSaved := by
  intro x s hwf hfit
  obtain ⟨t, ht, hstored, hframe⟩ := registersAreStored x s hwf hfit
  refine ⟨t, ht, fun u hmem hparams hindex => ?_⟩
  have hireg : u.ireg = s.ireg := hindex.trans hframe.index
  obtain ⟨v, hv, hloaded, -⟩ := registersAreLoaded x u (hireg ▸ (hfit x.toNat le_rfl).1)
  refine ⟨v, hv, fun r hr => ?_⟩
  calc v.getV r = u.memRead (u.ireg.toNat + r.toNat) := hloaded r hr
    _ = t.memRead (s.ireg.toNat + r.toNat) := by rw [State.memRead_congr hmem hparams, hireg]
    _ = s.getV r := hstored r hr

end Sys2Proof.Machine
end

section
/-! PROOFS. The display (44_display.md): the pixel loop (O44), a draw (O45), its collision flag (O46) and its inverse (O47),
the clear (O43), the two queries (O60). -/

namespace Sys2Proof.Machine

/-! ### Parts of the pixel loop

A part of the loop draws a mask, the set of pixels its bits fall on. Parts with disjoint masks compose, so the loop draws
the sprite's own mask, `spriteBit`. -/

/-- From `acc` to `acc'` the mask `m` was XORed into the grid, and the flag was set if it met a pixel that was on. -/
structure XorsMask (m : Nat → Nat → Bool) (acc acc' : Framebuffer × Bool) : Prop where
  pixel : ∀ px py, OnGrid px py → getPixel acc'.1 px py = (getPixel acc.1 px py ^^ m px py)
  collision : acc'.2 = true ↔
    acc.2 = true ∨ ∃ px py, OnGrid px py ∧ m px py = true ∧ getPixel acc.1 px py = true

/-- Nothing drawn is the empty mask drawn. -/
theorem XorsMask.refl (acc : Framebuffer × Bool) : XorsMask (fun _ _ => false) acc acc where
  pixel := by simp
  collision := by simp

/-- Two masks that share no pixel draw their union: the first leaves the pixels of the second as they were. -/
theorem XorsMask.trans {m m' : Nat → Nat → Bool} {acc acc' acc'' : Framebuffer × Bool} (h : XorsMask m acc acc')
    (h' : XorsMask m' acc' acc'') (hdisjoint : ∀ px py, m px py = true → m' px py = false) :
    XorsMask (fun px py => m px py || m' px py) acc acc'' where
  pixel px py hgrid := by
    rw [h'.pixel px py hgrid, h.pixel px py hgrid, Bool.xor_assoc]
    cases hm : m px py
    · simp
    · simp [hdisjoint px py hm]
  collision := by
    have hsame (px py : Nat) (hgrid : OnGrid px py) (hm' : m' px py = true) :
        getPixel acc'.1 px py = getPixel acc.1 px py := by
      have hm : m px py = false := by
        cases hm : m px py
        · rfl
        · exact absurd hm' (by simp [hdisjoint px py hm])
      rw [h.pixel px py hgrid, hm, Bool.xor_false]
    rw [h'.collision, h.collision, or_assoc]
    simp only [Bool.or_eq_true]
    refine or_congr_right ⟨?_, ?_⟩
    · rintro (⟨px, py, hgrid, hm, hon⟩ | ⟨px, py, hgrid, hm', hon⟩)
      · exact ⟨px, py, hgrid, .inl hm, hon⟩
      · exact ⟨px, py, hgrid, .inr hm', hsame px py hgrid hm' ▸ hon⟩
    · rintro ⟨px, py, hgrid, hm | hm', hon⟩
      · exact .inl ⟨px, py, hgrid, hm, hon⟩
      · exact .inr ⟨px, py, hgrid, hm', (hsame px py hgrid hm').trans hon⟩

/-- Columns `lo` to `hi - 1` of a sprite row at `(x0, y0)`, as a mask. -/
def columnsMask (x0 y0 : Nat) (row : Byte) (lo hi px py : Nat) : Bool :=
  decide (x0 + lo ≤ px ∧ px < x0 + hi ∧ py = y0) && row.getLsbD (7 - (px - x0))

theorem columnsMask_eq_true_iff {x0 y0 : Nat} {row : Byte} {lo hi px py : Nat} :
    columnsMask x0 y0 row lo hi px py = true ↔
      (x0 + lo ≤ px ∧ px < x0 + hi ∧ py = y0) ∧ row.getLsbD (7 - (px - x0)) = true := by
  simp only [columnsMask, Bool.and_eq_true, decide_eq_true_eq]

/-- A column is one pixel wide. -/
theorem columnsMask_succ_eq_true_iff {x0 y0 : Nat} {row : Byte} {c px py : Nat} :
    columnsMask x0 y0 row c (c + 1) px py = true ↔ row.getLsbD (7 - c) = true ∧ px = x0 + c ∧ py = y0 := by
  rw [columnsMask_eq_true_iff]
  constructor
  · rintro ⟨⟨hlo, hhi, rfl⟩, hbit⟩
    obtain rfl : px = x0 + c := by omega
    rw [Nat.add_sub_cancel_left] at hbit
    exact ⟨hbit, rfl, rfl⟩
  · rintro ⟨hbit, rfl, rfl⟩
    rw [Nat.add_sub_cancel_left]
    exact ⟨by omega, hbit⟩

/-- One turn of the loop draws one column. -/
theorem xorsMask_blitBit (x0 y0 : Nat) (row : Byte) (acc : Framebuffer × Bool) (c : Nat) :
    XorsMask (columnsMask x0 y0 row c (c + 1)) acc (blitBit x0 y0 row acc c) where
  pixel px py hgrid := by
    obtain ⟨hx, hy⟩ : px < 64 ∧ py < 32 := hgrid
    rw [getPixel_blitBit]
    congr 1
    rw [Bool.eq_iff_iff, decide_eq_true_eq, columnsMask_succ_eq_true_iff]
    constructor
    · rintro ⟨hbit, -, -, hpx, hpy⟩
      exact ⟨hbit, hpx, hpy⟩
    · rintro ⟨hbit, rfl, rfl⟩
      exact ⟨hbit, hx, hy, rfl, rfl⟩
  collision := by
    rw [blitBit_collision, Bool.or_eq_true, decide_eq_true_eq]
    simp only [columnsMask_succ_eq_true_iff]
    refine or_congr_right ⟨?_, ?_⟩
    · rintro ⟨hbit, hx, hy, hon⟩
      exact ⟨_, _, ⟨hx, hy⟩, ⟨hbit, rfl, rfl⟩, hon⟩
    · rintro ⟨px, py, ⟨hx, hy⟩, ⟨hbit, rfl, rfl⟩, hon⟩
      exact ⟨hbit, hx, hy, hon⟩

/-- The first `k` turns of the loop draw the first `k` columns, no two of which share a pixel. -/
theorem xorsMask_foldl_blitBit (x0 y0 : Nat) (row : Byte) (acc : Framebuffer × Bool) (k : Nat) :
    XorsMask (columnsMask x0 y0 row 0 k) acc ((List.range k).foldl (blitBit x0 y0 row) acc) := by
  induction k with
  | zero =>
    have hempty : columnsMask x0 y0 row 0 0 = fun _ _ => false := by
      funext px py
      rw [columnsMask, decide_eq_false (by omega), Bool.false_and]
    rw [hempty]
    exact .refl acc
  | succ k ih =>
    have hunion : columnsMask x0 y0 row 0 (k + 1) =
        fun px py => columnsMask x0 y0 row 0 k px py || columnsMask x0 y0 row k (k + 1) px py := by
      funext px py
      simp only [columnsMask]
      rw [← Bool.and_or_distrib_right, ← Bool.decide_or]
      congr 2
      rw [eq_iff_iff]
      omega
    rw [List.range_succ, List.foldl_append, hunion]
    refine ih.trans (xorsMask_blitBit x0 y0 row _ k) fun px py hm => ?_
    obtain ⟨hcol, -⟩ := columnsMask_eq_true_iff.mp hm
    rw [columnsMask, decide_eq_false (by omega), Bool.false_and]

/-- A sprite is its first row and the rows below it. -/
theorem spriteBit_cons (x0 y0 : Nat) (row : Byte) (rows : List Byte) : spriteBit x0 y0 (row :: rows) =
    fun px py => columnsMask x0 y0 row 0 8 px py || spriteBit x0 (y0 + 1) rows px py := by
  funext px py
  simp only [spriteBit, columnsMask, List.length_cons]
  obtain habove | rfl | hbelow := Nat.lt_trichotomy py y0
  · rw [decide_eq_false (by omega), decide_eq_false (by omega), decide_eq_false (by omega)]
    rfl
  · simp
  · rw [decide_eq_false (p := _ ∧ _ ∧ py = y0) (by omega), Bool.false_and, Bool.false_or,
      show py - y0 = py - (y0 + 1) + 1 by omega, List.getD_cons_succ]
    congr 2
    rw [eq_iff_iff]
    omega

/-- The rows of a sprite, drawn one below the other, draw the sprite. -/
theorem xorsMask_blitRows (x0 y0 : Nat) (rows : List Byte) (acc : Framebuffer × Bool) :
    XorsMask (spriteBit x0 y0 rows) acc (blitRows x0 y0 rows acc) := by
  induction rows generalizing y0 acc with
  | nil =>
    have hempty : spriteBit x0 y0 [] = fun _ _ => false := by
      funext px py
      simp only [spriteBit, List.length_nil]
      rw [decide_eq_false (by omega), Bool.false_and]
    rw [hempty]
    exact .refl acc
  | cons row rows ih =>
    rw [spriteBit_cons]
    refine (xorsMask_foldl_blitBit x0 y0 row acc 8).trans (ih (y0 + 1) _) fun px py hm => ?_
    obtain ⟨hrow, -⟩ := columnsMask_eq_true_iff.mp hm
    rw [spriteBit, decide_eq_false (by omega), Bool.false_and]

/-- Settles O44: the loop draws the sprite's mask, with the flag clear at the start. -/
theorem blitXorsTheSpriteAndClips : Obligations.BlitXorsTheSpriteAndClips := by
  intro x0 y0 rows fb
  obtain ⟨hpixel, hcollision⟩ := xorsMask_blitRows x0 y0 rows (fb, false)
  exact ⟨hpixel, hcollision.trans (or_iff_right Bool.false_ne_true)⟩

/-! ### DXYN -/

theorem flagByte_eq_one_iff {c : Bool} : flagByte c = 1#8 ↔ c = true := by
  cases c <;> decide

theorem flagByte_zero_or_one (c : Bool) : flagByte c = 0#8 ∨ flagByte c = 1#8 := by
  cases c
  · exact .inl rfl
  · exact .inr rfl

/-- The sprite of a DXYN as a mask: the `n` bytes from `I` on, at the coordinates that `V[x]` and `V[y]` select (R302). -/
def State.spriteMask (s : State) (x y : Reg) (n : Nibble) : Nat → Nat → Bool :=
  spriteBit (spriteX (s.getV x)) (spriteY (s.getV y)) (s.loadBytes s.indexAddr n.toNat)

/-- With its bytes inside memory DXYN draws. -/
theorem exec_drw_of_lt {s : State} {n : Nibble} (x y : Reg) (h : ∀ r, r < n.toNat → s.ireg.toNat + r < 4096) :
    exec (.drw x y n) s = .next (s.draw x y n).complete := by
  have hpass : firstFault readFault s.indexAddr n.toNat = none :=
    firstFault_eq_none_iff.mpr fun r hr => readFault_eq_none_iff.mpr (h r hr)
  simp only [exec, execDrw, hpass, State.checked]

section
variable (s : State) (x y : Reg) (n : Nibble)

theorem State.pixel_draw {px py : Nat} (hgrid : OnGrid px py) :
    (s.draw x y n).pixel px py = (s.pixel px py ^^ s.spriteMask x y n px py) :=
  (blitXorsTheSpriteAndClips _ _ _ s.fb).1 px py hgrid

theorem State.getV_VF_draw : (s.draw x y n).getV VF =
    flagByte (blit (spriteX (s.getV x)) (spriteY (s.getV y)) (s.loadBytes s.indexAddr n.toNat) s.fb).2 :=
  State.getV_setV_same _ VF _

/-- The flag byte of a draw is 1 exactly on a collision. -/
theorem State.getV_VF_draw_eq_one_iff : (s.draw x y n).getV VF = 1#8 ↔
    ∃ px py, OnGrid px py ∧ s.pixel px py = true ∧ s.spriteMask x y n px py = true := by
  rw [State.getV_VF_draw, flagByte_eq_one_iff, (blitXorsTheSpriteAndClips _ _ _ s.fb).2]
  simp only [and_comm (a := spriteBit _ _ _ _ _ = true)]
  rfl

theorem State.getV_VF_draw_zero_or_one : (s.draw x y n).getV VF = 0#8 ∨ (s.draw x y n).getV VF = 1#8 := by
  rw [State.getV_VF_draw]
  exact flagByte_zero_or_one _

/-- A collision is a pixel that goes off (R303). -/
theorem State.getV_VF_draw_eq_one_iff_off : (s.draw x y n).getV VF = 1#8 ↔
    ∃ px py, s.pixel px py = true ∧ (s.draw x y n).pixel px py = false := by
  rw [State.getV_VF_draw_eq_one_iff]
  constructor
  · rintro ⟨px, py, hgrid, hon, hm⟩
    exact ⟨px, py, hon, by rw [State.pixel_draw s x y n hgrid, hon, hm]; rfl⟩
  · rintro ⟨px, py, hon, hoff⟩
    have hgrid : OnGrid px py := by
      by_contra hout
      exact absurd ((getPixel_off_grid s.fb hout).symm.trans hon) (by simp)
    rw [State.pixel_draw s x y n hgrid, hon] at hoff
    exact ⟨px, py, hgrid, hon, by simpa using hoff⟩

end

/-- Settles O45: the mask is the sprite that the statement writes out. -/
theorem drawXorsTheSprite : Obligations.DrawXorsTheSprite := by
  intro x y n s hfit
  refine ⟨_, exec_drw_of_lt x y hfit, fun px py => s.pixel_draw x y n, s.getV_VF_draw_zero_or_one x y n,
    s.getV_VF_draw_eq_one_iff x y n, ?_, .of_setV (u := { s with fb := (s.draw x y n).fb }) rfl rfl, rfl, rfl,
    .of_eq rfl rfl, .of_eq rfl rfl, ⟨rfl, rfl⟩, .of_eq rfl rfl rfl, rfl, ⟨rfl, rfl, rfl⟩, rfl⟩
  rintro rfl
  exact ⟨.of_eq rfl, s.getV_VF_draw x y 0x0#4⟩

/-- Settles O46: VF is 0 or 1, and 1 exactly when a pixel went off. -/
theorem collisionMeansAPixelWentOff : Obligations.CollisionMeansAPixelWentOff := by
  intro x y n s hfit
  have hoff := s.getV_VF_draw_eq_one_iff_off x y n
  exact ⟨_, exec_drw_of_lt x y hfit, hoff.mpr,
    fun hnone => (s.getV_VF_draw_zero_or_one x y n).resolve_right (hnone ∘ hoff.mp)⟩

/-- A state with the same memory, parameters and `I` holds the same sprite, drawn where its registers say. -/
theorem State.spriteMask_congr {s t : State} {x y x' y' : Reg} (n : Nibble) (hm : t.mem = s.mem)
    (hp : t.params = s.params) (hi : t.ireg = s.ireg) (hx : t.getV x' = s.getV x) (hy : t.getV y' = s.getV y) :
    t.spriteMask x' y' n = s.spriteMask x y n := by
  simp only [State.spriteMask, State.loadBytes, State.indexAddr, hi, hx, hy, State.memRead_congr hm hp]

/-- Settles O47: the second draw XORs the mask of the first one in again, over pixels that the first one has changed. -/
theorem secondDrawRestoresTheFramebuffer : Obligations.SecondDrawRestoresTheFramebuffer := by
  intro x y x' y' n s hfit
  refine ⟨_, exec_drw_of_lt x y hfit, fun hx hy => ?_⟩
  have hmask : (s.draw x y n).complete.spriteMask x' y' n = s.spriteMask x y n :=
    State.spriteMask_congr n rfl rfl rfl hx hy
  have hfirst (px py : Nat) (hgrid : OnGrid px py) :
      (s.draw x y n).complete.pixel px py = (s.pixel px py ^^ s.spriteMask x y n px py) := s.pixel_draw x y n hgrid
  refine ⟨_, exec_drw_of_lt x' y' hfit, fb_ext fun px py hpx hpy => ?_, ?_⟩
  · have hgrid : OnGrid px py := ⟨hpx, hpy⟩
    calc ((s.draw x y n).complete.draw x' y' n).pixel px py
      _ = (s.pixel px py ^^ s.spriteMask x y n px py ^^ s.spriteMask x y n px py) := by
        rw [State.pixel_draw _ x' y' n hgrid, hmask, hfirst px py hgrid]
      _ = s.pixel px py := by rw [Bool.xor_assoc, Bool.xor_self, Bool.xor_false]
  · refine (State.getV_VF_draw_eq_one_iff _ x' y' n).trans ?_
    rw [hmask]
    refine exists₂_congr fun px py => and_congr_right fun hgrid => and_congr_left fun hm => ?_
    rw [hfirst px py hgrid, hm, Bool.xor_true, Bool.not_eq_true']

/-! ### The clear and the queries -/

/-- Settles O43: the meaning writes the framebuffer alone. -/
theorem clearTurnsEveryPixelOff : Obligations.ClearTurnsEveryPixelOff :=
  ⟨decode_encode .cls, fun _ => ⟨_, rfl, getPixel_clearFb, .of_eq rfl [], rfl, rfl, .of_eq rfl rfl, .of_eq rfl rfl,
    ⟨rfl, rfl⟩, .of_eq rfl rfl rfl, rfl, ⟨rfl, rfl, rfl⟩, rfl⟩⟩

/-- Settles O60: `PIXEL` answers by the grid's bounds. -/
theorem queriesChangeNothing : Obligations.QueriesChangeNothing := fun _ _ _ =>
  ⟨fun hx hy => if_pos ⟨hx, hy⟩, fun hout => if_neg fun ⟨hx, hy⟩ => hout.elim (Nat.not_le.mpr hx) (Nat.not_le.mpr hy), rfl⟩

end Sys2Proof.Machine
end

section
/-! PROOFS. Input (45_input.md): the key events (O51), the key skips (O48), the key read (O49), its wait (O50), the press
and release that end it (O52), and who consumes the latch (O19). -/

namespace Sys2Proof.Machine

/-! ### Key events -/

theorem transact_keyDown_of_lt {k : Nat} (hk : k < 16) (s : State) :
    transact (.keyDown k) s = (.ok, s.pressKey (BitVec.ofNat 4 k)) := if_pos hk

theorem transact_keyUp_of_lt {k : Nat} (hk : k < 16) (s : State) :
    transact (.keyUp k) s = (.ok, s.releaseKey (BitVec.ofNat 4 k)) := if_pos hk

/-- Setting key `k`, read by the keys' numbers. -/
theorem State.keyDown_setKey_ofNat (s : State) {k : Nat} (hk : k < 16) (j : Nibble) (b : Bool) :
    (s.setKey (BitVec.ofNat 4 k) b).keyDown j = if j.toNat = k then b else s.keyDown j := by
  rw [State.keyDown_setKey]
  exact if_congr (by rw [eq_comm, reg_ofNat_eq_iff hk, eq_comm]) rfl rfl

/-- Settles O51: both events are `setKey`, and a press writes the latch, too. -/
theorem keyEvents : Obligations.KeyEvents := by
  intro k s
  refine ⟨fun hk => ?_, fun hk => ⟨if_neg hk.not_gt, if_neg hk.not_gt⟩⟩
  rw [transact_keyDown_of_lt hk, transact_keyUp_of_lt hk]
  exact ⟨rfl, rfl, rfl, rfl, fun j => ⟨s.keyDown_setKey_ofNat hk j true, s.keyDown_setKey_ofNat hk j false⟩⟩

/-! ### The key skips -/

/-- Format `x_sub` (30_encoding.md R103): the register in the field that the row's pattern leaves 0. -/
theorem word_x_sub (g : Nibble) (x : Reg) (b : Byte) : g ++ 0x0#4 ++ b ||| x.setWidth 16 <<< 8 = g ++ x ++ b := by
  rw [← word_xnn, ← word_xnn]
  simp [BitVec.or_assoc, BitVec.or_comm (b.setWidth 16)]

theorem decode_skp (x : Reg) : decode (0xE09E#16 ||| x.setWidth 16 <<< 8) = .instr (.skp x) :=
  (congrArg decode (word_x_sub 0xE#4 x 0x9E#8)).trans (decode_encode (.skp x))

theorem decode_sknp (x : Reg) : decode (0xE0A1#16 ||| x.setWidth 16 <<< 8) = .instr (.sknp x) :=
  (congrArg decode (word_x_sub 0xE#4 x 0xA1#8)).trans (decode_encode (.sknp x))

/-- The low 4 bits are the remainder by 16 (R330). -/
theorem keyNumber_eq_ofNat_mod (b : Byte) : keyNumber b = BitVec.ofNat 4 (b.toNat % 16) := by
  apply BitVec.eq_of_toNat_eq
  simp [keyNumber]

/-- Settles O48: both skips are `skipIf` on the key that `V[x]` numbers. -/
theorem keySkips : Obligations.KeySkips := by
  intro x s
  rw [← keyNumber_eq_ofNat_mod]
  refine ⟨decode_skp x, decode_sknp x, ⟨_, rfl, onlyPc_skipIf s _, by simp⟩, ⟨_, rfl, onlyPc_skipIf s _, ?_⟩⟩
  cases s.keyDown (keyNumber (s.getV x)) <;> rfl

/-! ### The key read -/

/-- A key read in execution with a key latched (R332). -/
theorem exec_ldVxK_of_latched {s : State} (h : s.latchValid = true) (x : Reg) : exec (.ldVxK x) s = .next
    { s.setV x (s.latchKey.setWidth 8) with latchValid := false }.complete :=
  congrArg _ (if_pos h)

/-- A key read in execution with the latch empty (R332). -/
theorem exec_ldVxK_of_empty {s : State} (h : s.latchValid = false) (x : Reg) :
    exec (.ldVxK x) s = .next { s with pc := s.ia, status := .awaitKey } :=
  congrArg _ (if_neg (by simp [h]))

theorem decode_ldVxK (x : Reg) : decode (0xF00A#16 ||| x.setWidth 16 <<< 8) = .instr (.ldVxK x) :=
  (congrArg decode (word_x_sub 0xF#4 x 0x0A#8)).trans (decode_encode (.ldVxK x))

/-- A key's number in a register. -/
theorem State.toNat_getV_setV_key (s : State) (x : Reg) (k : Nibble) :
    ((s.setV x (k.setWidth 8)).getV x).toNat = k.toNat := by
  rw [State.getV_setV_same, BitVec.toNat_setWidth_of_le (by decide)]

/-- Settles O49, with a key latched and without one. -/
theorem keyReadConsumesOrWaits : Obligations.KeyReadConsumesOrWaits := by
  intro x s
  refine ⟨decode_ldVxK x, fun hlatched => ?_, fun hempty => ?_⟩
  · exact ⟨_, exec_ldVxK_of_latched hlatched x, s.toNat_getV_setV_key x s.latchKey, rfl, rfl, fun _ => rfl,
      .of_setV (u := s) rfl rfl, rfl, rfl, .of_eq rfl rfl, .of_eq rfl rfl, ⟨rfl, rfl⟩, .of_eq rfl, rfl, ⟨rfl, rfl, rfl⟩,
      rfl⟩
  · exact ⟨_, exec_ldVxK_of_empty hempty x, rfl, rfl, .of_eq rfl [], rfl, .of_eq rfl rfl,
      .of_eq rfl rfl rfl rfl rfl rfl rfl rfl rfl rfl rfl rfl⟩

/-! ### The wait -/

/-- The end of a step finds nothing to clear in an empty latch (R343). -/
theorem State.endStep_of_empty {s : State} (h : s.latchValid = false) : s.endStep = s := by
  rw [State.endStep_eq, State.endStep_latchValid, h, Bool.false_and, ← h]

/-- A step at a key read with the latch empty changes the status only: the advance is taken back (R333). -/
theorem step_of_waiting {s : State} {x : Reg} (hrun : s.WillRun (.ldVxK x)) (h : s.latchValid = false) :
    step s = .next { s with status := .awaitKey } := by
  obtain ⟨w, hw, hd⟩ := hrun
  have hexec := exec_ldVxK_of_empty (s := s.advance) h x
  rw [State.ia_advance] at hexec
  rw [step_of_instr hw hd hexec]
  exact congrArg _ (State.endStep_of_empty h)

/-- A run is the step, then the rest of the run. -/
theorem run_succ_of_step {s t : State} (h : step s = .next t) (n : Nat) :
    Host.Core.run Sys2Proof.core (n + 1) s = Host.Core.run Sys2Proof.core n t := by
  simp only [Host.Core.run, core, h]

/-- Settles O50, by induction on the steps: the state after a waiting step waits, too. -/
theorem waitForAKeyGoesOnUnchanged : Obligations.WaitForAKeyGoesOnUnchanged := by
  intro x s hrun hempty n
  induction n generalizing s with
  | zero => exact run_succ_of_step (step_of_waiting hrun hempty) 0
  | succ n ih =>
    rw [run_succ_of_step (step_of_waiting hrun hempty)]
    exact ih { s with status := .awaitKey } (hrun.of_eq rfl rfl rfl rfl) hempty

/-! ### The end of the wait -/

/-- A step at a key read with a key latched completes the read (R332), and its end finds the latch empty. -/
theorem step_of_latched {s : State} {x : Reg} (hrun : s.WillRun (.ldVxK x)) (h : s.latchValid = true) : step s = .next
    { s.advance.setV x (s.latchKey.setWidth 8) with latchValid := false }.complete := by
  obtain ⟨w, hw, hd⟩ := hrun
  rw [step_of_instr hw hd (exec_ldVxK_of_latched (s := s.advance) h x)]
  exact congrArg _ (State.endStep_of_empty rfl)

/-- A press, a release and `STEP(b)`, each performed whole (20_memory.md R88). -/
theorem transactAll_press_release_step {s t : State} {k : Nat} {b : Byte} (hk : k < 16)
    (h : step (((s.pressKey (BitVec.ofNat 4 k)).releaseKey (BitVec.ofNat 4 k)).setRnd b) = .next t) :
    transactAll [.keyDown k, .keyUp k, .step b] s = ([.ok, .ok, .status t.status], t) := by
  simp only [transactAll, transact_keyDown_of_lt hk, transact_keyUp_of_lt hk]
  simp only [transact, State.stepWith_of_step h]

/-- Settles O52: the release keeps the latch of the press (R341), and the fetch sees neither. -/
theorem pressAndReleaseSatisfiesTheKeyRead : Obligations.PressAndReleaseSatisfiesTheKeyRead := by
  intro x s k b hrun hk
  have hpressed : (((s.pressKey (BitVec.ofNat 4 k)).releaseKey (BitVec.ofNat 4 k)).setRnd b).WillRun (.ldVxK x) :=
    hrun.of_eq rfl rfl rfl rfl
  refine ⟨_, transactAll_press_release_step hk (step_of_latched hpressed rfl), ?_, rfl, rfl, .of_setV rfl rfl⟩
  calc _ = (BitVec.ofNat 4 k).toNat := State.toNat_getV_setV_key _ x _
    _ = k := Nat.mod_eq_of_lt hk

/-! ### Who consumes the latch -/

/-- The end of a step keeps the latch, or `LATCH_CLEAR_ON_STEP` empties it (R343). -/
theorem State.endStep_latchValid_cases (s : State) : s.endStep.latchValid = s.latchValid ∨
    s.endStep.latchValid = false ∧ s.params.latchClearOnStep = true := by
  unfold State.endStep
  split
  · next hclear => exact .inr ⟨rfl, (Bool.and_eq_true_iff.mp hclear).1⟩
  · exact .inl rfl

/-- Everything a step can do to the keys and the latch: nothing, or empty the latch, by FX0A or by
`LATCH_CLEAR_ON_STEP` (R342, R343). -/
theorem step_input_cases {s t : State} (h : step s = .next t) : t.key = s.key ∧ t.latchKey = s.latchKey ∧
    (t.latchValid = s.latchValid ∨
      t.latchValid = false ∧ (s.params.latchClearOnStep = true ∨ ∃ x, s.WillRun (.ldVxK x))) := by
  obtain ⟨r, -, rfl⟩ | ⟨-, -, rfl⟩ | ⟨w, -, -, rfl⟩ | ⟨w, i, u, hw, hd, hu, rfl⟩ := step_cases h
  · exact ⟨rfl, rfl, .inl rfl⟩
  · exact ⟨rfl, rfl, .inl rfl⟩
  · refine ⟨State.endStep_key _, State.endStep_latchKey _, ?_⟩
    exact (State.endStep_latchValid_cases _).imp_right (And.imp_right .inl)
  · obtain hc | ⟨kind, rfl, -⟩ := exec_cases hu
    · refine ⟨u.endStep_key.trans hc.keys, u.endStep_latchKey.trans hc.latchKey, ?_⟩
      obtain hend | ⟨hend, hclear⟩ := u.endStep_latchValid_cases
      · rw [hend]
        exact hc.latchValid.imp_right (And.imp_right fun ⟨x, hx⟩ => .inr ⟨x, w, hw, hx ▸ hd⟩)
      · exact .inr ⟨hend, .inl (hc.params ▸ hclear)⟩
    · rw [State.endStep_raiseIn]
      exact ⟨rfl, rfl, .inl rfl⟩

/-- Settles O19: a latch that differs after the step is an empty one. -/
theorem onlyTheKeyReadConsumesTheLatch : Obligations.OnlyTheKeyReadConsumesTheLatch := by
  intro s t hstep
  obtain ⟨hkey, hnumber, hlatch⟩ := step_input_cases hstep
  refine ⟨State.keyDown_congr hkey, hnumber, fun hset => ?_, fun hkeep hfull hempty => ?_⟩
  · obtain hsame | ⟨hempty, -⟩ := hlatch
    · exact hsame ▸ hset
    · simp [hset] at hempty
  · obtain hsame | ⟨-, hclear | hread⟩ := hlatch
    · simp [hsame, hfull] at hempty
    · simp [hkeep] at hclear
    · exact hread

end Sys2Proof.Machine
end

section
/-! PROOFS. Timers (46_timers.md): one tick (O54), any number of ticks (O55), and the three moves between a register and a
timer (O53). -/

namespace Sys2Proof.Machine

/-! ### Ticks -/

/-- The floor at zero is that of subtraction on the naturals (R370). -/
theorem toNat_countDown (b : Byte) : (countDown b).toNat = b.toNat - 1 := by
  unfold countDown
  split
  · next hzero => subst hzero; rfl
  · next hpos => bv_omega

theorem transact_tick (s : State) : transact .tick s = (.nothing, s.tick) := rfl

/-- Settles O54: a tick writes the two timers alone, each counted down. -/
theorem tickCountsEachTimerDown : Obligations.TickCountsEachTimerDown := by
  intro s
  rw [transact_tick]
  exact ⟨rfl, toNat_countDown s.dt, toNat_countDown s.st, rfl⟩

/-- A row of ticks is one tick, then the rest of the row. -/
theorem transactAll_ticks_succ (k : Nat) (s : State) : (transactAll (List.replicate (k + 1) .tick) s).2 =
    (transactAll (List.replicate k .tick) s.tick).2 := rfl

/-- Settles O55, by induction on the ticks: the first of them leaves `DT - 1` and `ST - 1` to the others. -/
theorem manyTicksFloorAtZero : Obligations.ManyTicksFloorAtZero := by
  intro k s
  induction k generalizing s with
  | zero => exact ⟨rfl, rfl⟩
  | succ k ih =>
    obtain ⟨hdt, hst⟩ := ih s.tick
    rw [State.tick_dt, toNat_countDown] at hdt
    rw [State.tick_st, toNat_countDown] at hst
    rw [transactAll_ticks_succ, hdt, hst]
    omega

/-! ### Moves between a register and a timer -/

theorem decode_ldVxDt (x : Reg) : decode (0xF007#16 ||| x.setWidth 16 <<< 8) = .instr (.ldVxDt x) :=
  (congrArg decode (word_x_sub 0xF#4 x 0x07#8)).trans (decode_encode (.ldVxDt x))

theorem decode_ldDtVx (x : Reg) : decode (0xF015#16 ||| x.setWidth 16 <<< 8) = .instr (.ldDtVx x) :=
  (congrArg decode (word_x_sub 0xF#4 x 0x15#8)).trans (decode_encode (.ldDtVx x))

theorem decode_ldStVx (x : Reg) : decode (0xF018#16 ||| x.setWidth 16 <<< 8) = .instr (.ldStVx x) :=
  (congrArg decode (word_x_sub 0xF#4 x 0x18#8)).trans (decode_encode (.ldStVx x))

/-- Settles O53: FX07 writes `V[x]` alone, FX15 and FX18 one timer alone. -/
theorem timerMoves : Obligations.TimerMoves := by
  intro x s
  refine ⟨decode_ldVxDt x, decode_ldDtVx x, decode_ldStVx x, ⟨_, rfl, s.getV_setV_same x s.dt, onlyRegs_setV s x s.dt⟩,
    ⟨_, rfl, rfl, rfl, ?_⟩, ⟨_, rfl, rfl, rfl, ?_⟩⟩
  all_goals exact ⟨.of_eq rfl [], rfl, rfl, .of_eq rfl rfl, .of_eq rfl rfl, .of_eq rfl, .of_eq rfl rfl rfl, rfl,
    ⟨rfl, rfl, rfl⟩, rfl⟩

end Sys2Proof.Machine
end

section
/-! PROOFS. Reset (70_reset_and_hazards.md R420): every piece of state after `INIT` (O56, O57) and the invariant (O20);
loading (R424, R425): `LOAD` copies or refuses (O58), and a loaded word is fetched (O59); the permanence of a fatal error
(60_exceptions.md R387; O9). -/

namespace Sys2Proof

/-- The machine's parameters are legal (00_scope.md R8): of the two free values, the types bound the font's address and
fix its length. -/
theorem Config.params_wf : Config.params.wf = true := by
  have hfits : Config.params.fontFits = true := decide_eq_true (show Config.fontOffset.val + 80 ≤ 0x200 by omega)
  have hglyphs : Config.params.glyphsComplete = true := decide_eq_true Config.fontGlyphs.length_toList
  rw [Params.wf, hfits, hglyphs]
  rfl

end Sys2Proof

namespace Sys2Proof.Machine

/-! ### Reset -/

section
variable (p : Params) (off : Word)

theorem State.getV_init (r : Reg) : (State.init p off).getV r = 0#8 := Vector.getElem_replicate ..

/-- A slot outside the stack reads 0, too (log 7). -/
theorem State.slot_init (j : Nat) : (State.init p off).slot j = 0#16 :=
  List.getElem?_getD_replicate_default_eq 0#16 p.stackCapacity j

theorem State.pixel_init (x y : Nat) : (State.init p off).pixel x y = false := getPixel_clearFb x y

theorem State.keyDown_init (k : Nibble) : (State.init p off).keyDown k = false := Vector.getElem_replicate ..

theorem State.memRead_init (a : Nat) : (State.init p off).memRead a = initialByte p a := rfl

end

theorem transact_init (off : Word) (s : State) : transact (.init off) s = (.nothing, s.initialise off) := rfl

/-- Settles O56: `INIT` leaves the state of `State.init` but for the random supply, which no accessor reads. -/
theorem initResetsEveryPieceOfState : Obligations.InitResetsEveryPieceOfState := by
  intro off s
  rw [transact_init]
  exact ⟨rfl, State.getV_init s.params off, rfl, rfl, rfl, State.slot_init s.params off, rfl, rfl,
    State.pixel_init s.params off, State.keyDown_init s.params off, rfl, rfl, rfl, rfl, State.memRead_init s.params off⟩

/-- Settles O57: reset is `INIT(0x0200)`, which leaves 0 outside the font region. -/
theorem resetStartsAt0200 : Obligations.ResetStartsAt0200 := by
  refine ⟨rfl, rfl, State.getV_init _ _, fun a ha => ?_⟩
  calc State.reset.memRead a = initialByte State.reset.params a := State.memRead_init _ _ a
    _ = 0#8 := by simp [initialByte, ha]

/-- Power-on (R420): `INIT` with legal parameters establishes the invariant with no state before it, where
`State.Inv.initialise` starts from a state that meets it. -/
theorem State.inv_init {p : Params} (hp : p.wf = true) {off : Word} (hoff : off.toNat + 1 < 4096) :
    (State.init p off).Inv where
  params := hp
  memory := rfl
  font := rfl
  stackLength := List.length_replicate
  spBound := Nat.zero_le _
  pcBound := show off.toNat ≤ 0x10FE by omega
  returnBound := fun w hw => by rw [List.eq_of_mem_replicate hw]; decide
  record := fun r hr => nomatch hr

/-- Settles O20: reset is the power-on of the machine's own parameters. -/
theorem resetMeetsTheInvariant : Obligations.ResetMeetsTheInvariant := State.inv_init Config.params_wf (by decide)

/-! ### Loading -/

/-- A run of stores writes memory alone (20_memory.md R81). -/
theorem State.storeBytes_eq (s : State) (a : Nat) (bs : List Byte) :
    s.storeBytes a bs = { s with mem := (s.storeBytes a bs).mem } := by
  induction bs generalizing s a with
  | nil => rfl
  | cons b bs ih => exact ih (s.memWrite a b) (a + 1)

/-- `LOAD` writes memory alone, whatever it answers (R424). -/
theorem State.load_eq (s : State) (offset : Nat) (bytes : Option (List Byte)) :
    (s.load offset bytes).2 = { s with mem := (s.load offset bytes).2.mem } := by
  cases bytes with
  | none => rfl
  | some bytes =>
    simp only [State.load]
    split
    · exact s.storeBytes_eq offset bytes
    · rfl

theorem transact_load_of_fits {s : State} {offset : Nat} {bytes : List Byte}
    (h : loadFits s.params offset bytes = true) :
    transact (.load offset (some bytes)) s = (.ok, s.storeBytes offset bytes) := if_pos h

theorem transact_load_of_not_fits {s : State} {offset : Nat} {bytes : List Byte}
    (h : ¬ loadFits s.params offset bytes = true) :
    transact (.load offset (some bytes)) s = (.loadError, s) := if_neg h

/-- Settles O58: the bytes either fit, and are stored as one run, or leave the address space or meet the font. -/
theorem loadCopiesOrRefuses : Obligations.LoadCopiesOrRefuses := by
  intro offset bytes s hwf
  refine ⟨rfl, fun hfit hfont => ?_, fun hout => ?_⟩
  · exact ⟨_, transact_load_of_fits (loadFits_iff.mpr ⟨hfit, hfont⟩),
      fun k hk => State.memRead_storeBytes_inside hwf offset bytes hfit hk,
      fun b hb => s.memRead_storeBytes_outside offset bytes hb, s.storeBytes_eq offset bytes⟩
  · refine transact_load_of_not_fits fun hfits => ?_
    obtain ⟨hfit, hfont⟩ := loadFits_iff.mp hfits
    obtain hbeyond | ⟨k, hk, hin⟩ := hout
    · exact absurd hfit (Nat.not_le.mpr hbeyond)
    · simp [hfont k hk] at hin

/-- The program region is clear of the font (20_memory.md R71). -/
theorem inFont_of_programBase_le (p : Params) {a : Nat} (h : Config.programBase ≤ a) : inFont p a = false := by
  simp [inFont, Nat.not_lt.mpr h]

/-- Settles O59: the two bytes fit, `LOAD` keeps `pc` and `FAULT`, and the fetch joins the bytes in their order. -/
theorem loadedWordIsFetchedNext : Obligations.LoadedWordIsFetchedNext := by
  intro s w hwf hf hbase hpc
  obtain ⟨-, hload, -⟩ := loadCopiesOrRefuses s.pc.toNat [w.extractLsb' 8 8, w.extractLsb' 0 8] s hwf
  obtain ⟨t, ht, hread, -, hframe⟩ := hload hpc fun k _ => inFont_of_programBase_le _ (Nat.le_add_right_of_le hbase)
  have htpc : t.pc = s.pc := by rw [hframe]
  have htf : t.fault = none := by rw [hframe]; exact hf
  have hhigh : t.memRead s.pc.toNat = w.extractLsb' 8 8 := hread 0 (by simp)
  have hlow : t.memRead (s.pc.toNat + 1) = w.extractLsb' 0 8 := hread 1 (by simp)
  have hfetch := willFetch_of_lt htf (htpc ▸ hpc)
  rw [htpc, hhigh, hlow, BitVec.extractLsb'_append_extractLsb'] at hfetch
  exact ⟨t, ht, hfetch⟩

/-! ### A fatal error is permanent -/

/-- Every step of a faulted block repeats the record, and leaves a block faulted with the same record. -/
theorem run_of_faulted {s : State} {r : FaultRecord} (hf : s.fault = some r) (n : Nat) :
    Host.Core.run Sys2Proof.core (n + 1) s = .next { s with status := .fatal r } := by
  induction n generalizing s with
  | zero => exact run_succ_of_step (step_of_faulted hf) 0
  | succ n ih =>
    rw [run_succ_of_step (step_of_faulted hf)]
    exact ih (s := s.repeatFatal r) hf

/-- No transaction but `INIT` clears `FAULT` (60_exceptions.md R387): a step repeats the record, the others do not write
`FAULT`. -/
theorem transact_fault_of_faulted {tr : Transaction} {s : State} {r : FaultRecord} (hf : s.fault = some r)
    (hinit : ∀ off, tr ≠ .init off) : (transact tr s).2.fault = some r := by
  cases tr
  case init off => exact absurd rfl (hinit off)
  case load offset bytes => exact (congrArg State.fault (s.load_eq offset bytes)).trans hf
  case step rnd =>
    have hstep : step (s.setRnd rnd) = .next ((s.setRnd rnd).repeatFatal r) := step_of_faulted hf
    exact (congrArg (·.2.fault) (State.stepWith_of_step hstep)).trans hf
  case keyDown | keyUp | pixel =>
    simp only [transact]
    split <;> exact hf
  case tick | sound => exact hf

/-- Settles O9: the steps by induction, the transactions one by one. -/
theorem faultedBlockIsFrozenUntilInit : Obligations.FaultedBlockIsFrozenUntilInit := fun _ _ hf =>
  ⟨run_of_faulted hf, fun _ => transact_fault_of_faulted hf⟩

end Sys2Proof.Machine
end
